-- ==== Sys2Proof/Word.lean ====
section
/-! DEFINITION. The widths of the Bubblizator byte-shift array (spec/00_scope.md R5). -/

namespace Sys2Proof

/-- A command word and the data of a response: `CMDW` = 32 bits (R5, R66). -/
abbrev Word := BitVec 32

/-- A byte or octet: `BYTEW` = 8 bits (R5, R12). -/
abbrev Byte := BitVec 8

/-- A character, one code point held as an opaque value: `CHARW` = 21 bits (R5, R21). -/
abbrev Chr := BitVec 21

/-- A symbol, an index of the alphabet: `SYMW` = 3 bits (R5, R12). -/
abbrev Sym := BitVec 3

/-- A group: `GRPW` = 24 bits = 3 shifted bytes = 8 symbols (R5, R12). -/
abbrev Group := BitVec 24

/-- A bit string: a sequence of bits, the leftmost first (R7). -/
abbrev Bits := List Bool

/-- The alphabet as a look-up table of `NALPHA` = 8 characters (R5, R12). -/
abbrev Alphabet := Vector Chr 8

end Sys2Proof
end

