-- ==== Sys2Proof/Syntax.lean ====
section
/-! DEFINITION. The sixteen commands of the BSA (spec/30_encoding.md R83), the closed type that R88 asks for. -/

namespace Sys2Proof

/-- A command with its operands, one constructor per row of the opcode table. An operand has exactly the width R82 gives
it, so every term is a command the encoding can express. -/
inductive Instr where
  /-- `SRST` (R100) -/
  | srst
  /-- `CLR` (R101) -/
  | clr
  /-- `LDA idx, ch` (R102) -/
  | lda (idx : Sym) (ch : Chr)
  /-- `CHKA` (R104) -/
  | chka
  /-- `KCLR` (R105) -/
  | kclr
  /-- `KPUSH b` (R106) -/
  | kpush (b : Byte)
  /-- `SETL v` (R107) -/
  | setl (v : BitVec 1)
  /-- `ENCB` (R125) -/
  | encb
  /-- `ENCP b` (R126) -/
  | encp (b : Byte)
  /-- `ENCE` (R127) -/
  | ence
  /-- `DECB` (R146) -/
  | decb
  /-- `DECP ch` (R147) -/
  | decp (ch : Chr)
  /-- `DECE` (R148) -/
  | dece
  /-- `RDST` (R180) -/
  | rdst
  /-- `RDN` (R181) -/
  | rdn
  /-- `POP` (R182) -/
  | pop
  deriving DecidableEq, Repr

end Sys2Proof
end

