-- ==== Sys2Proof/Decode.lean ====
section
/-! DEFINITION. From a command word to a command and back (spec/30_encoding.md R81 to R88). Decoding is total, reads no
state, and rejects an illegal word by the clause of R85 it falls under. -/

namespace Sys2Proof

/-- Why a word is illegal: the clauses (a) to (g) of R85. -/
inductive Illegal where
  /-- (a) `OP = 0x0` -/
  | opZero
  /-- (b) a command without operands and `w[27:0] != 0` -/
  | operandOnNone
  /-- (c) `LDA` with `w[27] = 1` or `w[23:21] != 0` -/
  | ldaReserved
  /-- (d) `KPUSH` or `ENCP` with `w[27:8] != 0` -/
  | byteReserved
  /-- (e) `SETL` with `w[27:1] != 0` -/
  | flagReserved
  /-- (f) `DECP` with `w[27:21] != 0` -/
  | charReserved
  /-- (g) `OP = 0xE` with `w[27:0]` other than 0x0000000 and 0x1000000 -/
  | readSelector
  deriving DecidableEq, Repr

namespace Word

/-- `OP` = w[31:28] (R81). -/
def op (w : Word) : BitVec 4 := w.extractLsb' 28 4

/-- w[27:0]: every bit below `OP` (R85). -/
def belowOp (w : Word) : BitVec 28 := w.extractLsb' 0 28

/-- `Z1` = w[27] (R81). -/
def z1 (w : Word) : BitVec 1 := w.extractLsb' 27 1

/-- `IDX` = w[26:24] (R81, R82). -/
def idx (w : Word) : Sym := w.extractLsb' 24 3

/-- `Z2` = w[23:21] (R81). -/
def z2 (w : Word) : BitVec 3 := w.extractLsb' 21 3

/-- `DATA` = w[20:0], the character operand `ch` (R81, R82). -/
def ch (w : Word) : Chr := w.extractLsb' 0 21

/-- The byte operand `b` = w[7:0] (R82). -/
def byte (w : Word) : Byte := w.extractLsb' 0 8

/-- The flag operand `v` = w[0] (R82). -/
def flag (w : Word) : BitVec 1 := w.extractLsb' 0 1

/-- w[27:8], zero in a command with a byte operand (R85 (d)). -/
def aboveByte (w : Word) : BitVec 20 := w.extractLsb' 8 20

/-- w[27:1], zero in a command with a flag operand (R85 (e)). -/
def aboveFlag (w : Word) : BitVec 27 := w.extractLsb' 1 27

/-- w[27:21], zero in `DECP` (R85 (f)). -/
def aboveChr (w : Word) : BitVec 7 := w.extractLsb' 21 7

end Word

/-- A command without operands: every bit below `OP` must be zero (R84, R85 (b)). -/
def decodeNone (w : Word) (i : Instr) : Except Illegal Instr :=
  if Word.belowOp w = 0 then .ok i else .error .operandOnNone

/-- `LDA`: `Z1` and `Z2` must be zero (R84, R85 (c)). -/
def decodeLda (w : Word) : Except Illegal Instr :=
  if Word.z1 w = 0 ∧ Word.z2 w = 0 then .ok (.lda (Word.idx w) (Word.ch w)) else .error .ldaReserved

/-- A command with a byte operand: w[27:8] must be zero (R84, R85 (d)). -/
def decodeByte (w : Word) (mk : Byte → Instr) : Except Illegal Instr :=
  if Word.aboveByte w = 0 then .ok (mk (Word.byte w)) else .error .byteReserved

/-- `SETL`: w[27:1] must be zero (R84, R85 (e)). -/
def decodeSetl (w : Word) : Except Illegal Instr :=
  if Word.aboveFlag w = 0 then .ok (.setl (Word.flag w)) else .error .flagReserved

/-- `DECP`: w[27:21] must be zero (R84, R85 (f)). -/
def decodeDecp (w : Word) : Except Illegal Instr :=
  if Word.aboveChr w = 0 then .ok (.decp (Word.ch w)) else .error .charReserved

/-- `RDST` and `RDN`: `OP = 0xE` with the selector in `IDX` and every other bit zero (R83, R85 (g)). -/
def decodeRead (w : Word) : Except Illegal Instr :=
  if Word.belowOp w = 0x0000000#28 then .ok .rdst
  else if Word.belowOp w = 0x1000000#28 then .ok .rdn
  else .error .readSelector

/-- The decoder of R88: the row of R83 that `OP` names, if every must-be-zero bit of that row is zero. -/
def decode (w : Word) : Except Illegal Instr :=
  if Word.op w = 0x0#4 then .error .opZero
  else if Word.op w = 0x1#4 then decodeNone w .srst
  else if Word.op w = 0x2#4 then decodeNone w .clr
  else if Word.op w = 0x3#4 then decodeLda w
  else if Word.op w = 0x4#4 then decodeNone w .chka
  else if Word.op w = 0x5#4 then decodeNone w .kclr
  else if Word.op w = 0x6#4 then decodeByte w .kpush
  else if Word.op w = 0x7#4 then decodeSetl w
  else if Word.op w = 0x8#4 then decodeNone w .encb
  else if Word.op w = 0x9#4 then decodeByte w .encp
  else if Word.op w = 0xA#4 then decodeNone w .ence
  else if Word.op w = 0xB#4 then decodeNone w .decb
  else if Word.op w = 0xC#4 then decodeDecp w
  else if Word.op w = 0xD#4 then decodeNone w .dece
  else if Word.op w = 0xE#4 then decodeRead w
  else decodeNone w .pop

/-- The encoder of R88: `OP`, then the fields of R81 from the most significant down. -/
def encode : Instr → Word
  | .srst => 0x1#4 ++ 0#28
  | .clr => 0x2#4 ++ 0#28
  | .lda idx ch => 0x3#4 ++ 0#1 ++ idx ++ 0#3 ++ ch
  | .chka => 0x4#4 ++ 0#28
  | .kclr => 0x5#4 ++ 0#28
  | .kpush b => 0x6#4 ++ 0#20 ++ b
  | .setl v => 0x7#4 ++ 0#27 ++ v
  | .encb => 0x8#4 ++ 0#28
  | .encp b => 0x9#4 ++ 0#20 ++ b
  | .ence => 0xA#4 ++ 0#28
  | .decb => 0xB#4 ++ 0#28
  | .decp ch => 0xC#4 ++ 0#7 ++ ch
  | .dece => 0xD#4 ++ 0#28
  | .rdst => 0xE#4 ++ 0#28
  | .rdn => 0xE#4 ++ 0#1 ++ 1#3 ++ 0#24
  | .pop => 0xF#4 ++ 0#28

/-- The mnemonic of a command (R83). -/
def Instr.mnemonic : Instr → String
  | .srst => "SRST"
  | .clr => "CLR"
  | .lda _ _ => "LDA"
  | .chka => "CHKA"
  | .kclr => "KCLR"
  | .kpush _ => "KPUSH"
  | .setl _ => "SETL"
  | .encb => "ENCB"
  | .encp _ => "ENCP"
  | .ence => "ENCE"
  | .decb => "DECB"
  | .decp _ => "DECP"
  | .dece => "DECE"
  | .rdst => "RDST"
  | .rdn => "RDN"
  | .pop => "POP"

/-- One row of the opcode map of R83: a word `w` selects it when `w & mask = match`. -/
structure OpcodeRow where
  mnemonic : String
  mtch : Word
  mask : Word
  deriving DecidableEq, Repr

/-- `w` selects the row (R83). -/
abbrev OpcodeRow.Selects (r : OpcodeRow) (w : Word) : Prop := w &&& r.mask = r.mtch

/-- The opcode map of R83, row by row. -/
def opcodeMap : List OpcodeRow :=
  [⟨"SRST", 0x10000000#32, 0xFFFFFFFF#32⟩,
   ⟨"CLR", 0x20000000#32, 0xFFFFFFFF#32⟩,
   ⟨"LDA", 0x30000000#32, 0xF8E00000#32⟩,
   ⟨"CHKA", 0x40000000#32, 0xFFFFFFFF#32⟩,
   ⟨"KCLR", 0x50000000#32, 0xFFFFFFFF#32⟩,
   ⟨"KPUSH", 0x60000000#32, 0xFFFFFF00#32⟩,
   ⟨"SETL", 0x70000000#32, 0xFFFFFFFE#32⟩,
   ⟨"ENCB", 0x80000000#32, 0xFFFFFFFF#32⟩,
   ⟨"ENCP", 0x90000000#32, 0xFFFFFF00#32⟩,
   ⟨"ENCE", 0xA0000000#32, 0xFFFFFFFF#32⟩,
   ⟨"DECB", 0xB0000000#32, 0xFFFFFFFF#32⟩,
   ⟨"DECP", 0xC0000000#32, 0xFFE00000#32⟩,
   ⟨"DECE", 0xD0000000#32, 0xFFFFFFFF#32⟩,
   ⟨"RDST", 0xE0000000#32, 0xFFFFFFFF#32⟩,
   ⟨"RDN", 0xE1000000#32, 0xFFFFFFFF#32⟩,
   ⟨"POP", 0xF0000000#32, 0xFFFFFFFF#32⟩]

/-- The command word whose bits, numbered as spec/opcode_table.json numbers them, are the low `nbits` bits of `w`. Every
row of that table has 32 bits and a word has no byte order (R66), so nothing is laid out. -/
def tableWord (nbits w : Nat) : Word := BitVec.ofNat 32 (w % 2 ^ nbits)

/-- The command the decoder reads from the instruction whose bits are `w`; none where it refuses. -/
def decodeTableWord (nbits w : Nat) : Option Instr := (decode (tableWord nbits w)).toOption

end Sys2Proof
end

