-- ==== Sys2Proof/Config.lean ====
section
/-! DEFINITION. What an implementation of the BSA fixes (the OPEN parameters of spec/00_scope.md R5), and the free values:
constants without a body, about which nothing can be proved. -/

namespace Sys2Proof

/-- The two OPEN parameters of R5. A claim about the BSA is made for every value of both in range (R11). -/
structure Params where
  /-- `KEYMAX`: capacity of the key array in bytes. -/
  keyMax : Nat
  /-- `RBMAX`: capacity of the result buffer in items. -/
  rbMax : Nat
  deriving DecidableEq, Repr

/-- The ranges of R5: 1 <= KEYMAX <= 255 and 8 <= RBMAX <= 2^32 - 1. -/
abbrev Params.InRange (p : Params) : Prop :=
  1 ≤ p.keyMax ∧ p.keyMax ≤ 255 ∧ 8 ≤ p.rbMax ∧ p.rbMax ≤ 4294967295

/-- DESIGN CHOICE (log 4, unsafe): the parameters `State.reset` takes. KEYMAX = 64 is R5's suggestion; RBMAX is the largest
value R5 allows ("RBMAX large enough", spec/95_test_vectors.md). No statement rests on either number. -/
def Params.suggested : Params := ⟨64, 4294967295⟩

/-- Two adjacent hex digits of a digest, as values 0 to 15, the first character of the pair the high one (R192, D27). -/
structure HexPair where
  high : Fin 16
  low : Fin 16
  deriving DecidableEq, Repr

namespace Config

/-- Free value: what an `ALPHA` entry that holds no value reads as (R42; 93_implementation_defined.md U9). Log 6. -/
opaque alphaNoValue : Sym → Chr

/-- Free value: what a `KEY` entry that holds no value, or that lies outside the array, reads as (R42, U9). Log 6. -/
opaque keyNoValue : Byte → Byte

/-- Free value: the next `KIDX` when `KEYLEN = 0`, where R29's `mod KEYLEN` has no value. Log 7. -/
opaque kidxNoKey : Byte → Byte

/-- Free value: where `ENCP` puts a shifted byte when `GCNT` is above 2 (R126 gives the place for 0, 1, 2 only). Log 7. -/
opaque placeOutside : Byte → BitVec 3 → Group

/-- Free value: how many symbols `ENCE` flushes when `GCNT` is above 2 (R127 gives 0, 3, 6 for 0, 1, 2 only). Log 7. -/
opaque flushOutside : BitVec 3 → Fin 9

/-- Free value: the key byte that the pure functions `shift` and `unshift` use at a position of an empty key, for which
R120 and R143 leave them undefined. Log 8. -/
opaque noKeyByte : Nat → Byte

/-- Free value: the pluggable hash function of R190, from the code points of a string to a digest, given by its pairs of hex
digits, so that every value is within the contract: a lowercase hex string (R190, U5) of even length (R192). Log 10. -/
opaque hash : List Nat → List HexPair

end Config

end Sys2Proof
end

