-- ==== Sys2Proof/Machine/State.lean ====
section
/-! DEFINITION. The state of the BSA: the sixteen elements of spec/10_state.md R20 (STATUS is a view of the others), the
two parameters, and the command port. -/

namespace Sys2Proof.Machine

/-- `MODE`, the transaction phase (R34). -/
inductive Mode where
  | idle
  | enc
  | dec
  | done
  deriving DecidableEq, Repr

/-- `VERDICT`, the outcome of the last closed transaction (R35). -/
inductive Verdict where
  | none
  | ok
  | legacy
  | malformed
  deriving DecidableEq, Repr

/-- `RKIND`, what the items of `RB` are (R32). -/
inductive RKind where
  | chars
  | bytes
  deriving DecidableEq, Repr

/-- `U8`, the state of the UTF-8 validation machine (43_utf8.md R161). -/
inductive U8 where
  | s0
  | s1
  | s2
  | s3
  | se0
  | sed
  | sf0
  | sf4
  | bad
  deriving DecidableEq, Repr

/-- `FCAUSE`, the fault cause register: exactly the ten values 0 to 9 (R36; 60_exceptions.md R211). -/
inductive FCause where
  /-- 0: no fault recorded -/
  | noFault
  | invalidAlphabet
  | malformedUtf8
  | illegalCommand
  | seqError
  | alphabetNotReady
  | keyEmpty
  | keyOverflow
  | resultOverflow
  | resultEmpty
  deriving DecidableEq, Repr

/-- The response to a command: the fault bit `rsp_flt` and the data word `rsp_data` (30_encoding.md R89). -/
structure Response where
  flt : Bool
  data : Word
  deriving DecidableEq, Repr

/-- What the world outside can do to the BSA: present a command word on the port (R80), or reset it (70_reset_and_hazards.md
R240). Log 1 and log 5. -/
inductive Input where
  | command (w : Word)
  | hardReset
  deriving DecidableEq, Repr

/-- The state. `params`, `port` and `rsp` are the model's own fields (log 4, 1, 2): R20 says that the parameters, the command
word and the response are not state of the BSA. -/
structure State where
  /-- `KEYMAX` and `RBMAX` (R5); no step changes them -/
  params : Params
  /-- `ALPHA[0..7]` (R21); `none` is R42's "no value" -/
  alpha : Vector (Option Chr) 8
  /-- `ALOADED` (R22) -/
  aloaded : BitVec 8
  /-- `ALPHA_OK` (R23) -/
  alphaOk : Bool
  /-- `KEY[0..KEYMAX-1]` (R24); `none` is R42's "no value" -/
  key : List (Option Byte)
  /-- `KEYLEN` (R25) -/
  keylen : BitVec 8
  /-- `LEGACY` (R26) -/
  legacy : Bool
  /-- `GRP` (R27) -/
  grp : Group
  /-- `GCNT` (R28) -/
  gcnt : BitVec 3
  /-- `KIDX` (R29) -/
  kidx : BitVec 8
  /-- `U8` (R30) -/
  u8 : U8
  /-- `RB`, head first (R31) -/
  rb : List Chr
  /-- `RKIND` (R32) -/
  rkind : RKind
  /-- `MODE` (R34) -/
  mode : Mode
  /-- `VERDICT` (R35) -/
  verdict : Verdict
  /-- `FCAUSE` (R36) -/
  fcause : FCause
  /-- the inputs issued by the host and not taken yet, the oldest first (R10, R71) -/
  port : List Input
  /-- the response to the last command taken (R80, R89); none before the first -/
  rsp : Option Response
  deriving DecidableEq, Repr

/-- The reasons a step can stop the machine: there is none. A fault of the BSA (60_exceptions.md R210) is a next state with
`FCAUSE` written; "the BSA always answers and never blocks" (70_reset_and_hazards.md R246). -/
inductive Fault where
  deriving DecidableEq, Repr

/-- The reasons the model can refuse an instruction. -/
inductive Refusal where
  /-- Raised by an arm of `exec` that has no meaning yet, by the mnemonic of its row. Safe: no claim about that instruction
  can be proved. No arm raises it: every command has its meaning. -/
  | notModelled (mnemonic : String)
  deriving DecidableEq, Repr

/-- Every element at the value of 10_state.md R41, for the parameters `p`. -/
def State.resetWith (p : Params) : State where
  params := p
  alpha := Vector.replicate 8 Option.none
  aloaded := 0
  alphaOk := false
  key := some 0 :: List.replicate (p.keyMax - 1) Option.none
  keylen := 1
  legacy := false
  grp := 0
  gcnt := 0
  kidx := 0
  u8 := .s0
  rb := []
  rkind := .chars
  mode := .idle
  verdict := .none
  fcause := .noFault
  port := []
  rsp := Option.none

/-- The machine right after hardware reset (R41, R240), no input waiting. -/
def State.reset : State := State.resetWith Params.suggested

end Sys2Proof.Machine
end

