-- ==== Sys2Proof/Machine/Flags.lean ====
section
/-! DEFINITION. The flags and the status word: the codes of the fields (spec/10_state.md R32, R34, R35; 60_exceptions.md
R211; 43_utf8.md R161), STATUS (R37), and the two checks behind `ALOADED` and `ALPHA_OK` (40_config.md R102 to R104). -/

namespace Sys2Proof.Machine

/-- `MODE` as its 2-bit value (R34). -/
def Mode.code : Mode → BitVec 2
  | .idle => 0
  | .enc => 1
  | .dec => 2
  | .done => 3

/-- `VERDICT` as its 2-bit value (R35). -/
def Verdict.code : Verdict → BitVec 2
  | .none => 0
  | .ok => 1
  | .legacy => 2
  | .malformed => 3

/-- `RKIND` as its bit (R32). -/
def RKind.code : RKind → BitVec 1
  | .chars => 0
  | .bytes => 1

/-- `FCAUSE` as its 4-bit value (R211). -/
def FCause.code : FCause → BitVec 4
  | .noFault => 0
  | .invalidAlphabet => 1
  | .malformedUtf8 => 2
  | .illegalCommand => 3
  | .seqError => 4
  | .alphabetNotReady => 5
  | .keyEmpty => 6
  | .keyOverflow => 7
  | .resultOverflow => 8
  | .resultEmpty => 9

/-- `U8` as its 4-bit code (R161), never visible to the host. -/
def U8.code : U8 → BitVec 4
  | .s0 => 0
  | .s1 => 1
  | .s2 => 2
  | .s3 => 3
  | .se0 => 4
  | .sed => 5
  | .sf0 => 6
  | .sf4 => 7
  | .bad => 8

/-- The status word of R37, field by field from bit 31 down; bits 15:12 and bit 7 read 0. -/
def State.status (s : State) : Word :=
  s.aloaded ++ s.keylen ++ 0#4 ++ s.fcause.code ++ 0#1 ++ s.rkind.code ++ BitVec.ofBool s.legacy
    ++ BitVec.ofBool s.alphaOk ++ s.verdict.code ++ s.mode.code

/-- `RCOUNT = len(RB)` as the 32-bit number `RDN` returns (R31, R181). -/
def State.rcount (s : State) : Word := BitVec.ofNat 32 s.rb.length

/-- `ALOADED[idx] <- 1` (R102). -/
def setLoaded (m : BitVec 8) (idx : Sym) : BitVec 8 := m ||| (1#8 <<< idx.toNat)

/-- `checkCharset(candidate)`: exactly 8 characters, pairwise distinct (R103). -/
def checkCharset (c : List Chr) : Bool := decide (c.length = 8 ∧ c.Pairwise (· ≠ ·))

end Sys2Proof.Machine
end

