-- ==== Sys2Proof/Machine/Operands.lean ====
section
/-! DEFINITION. The fields the datapath cuts out of the group register and puts into it, and the byte arithmetic
(spec/20_memory.md R64, R65; 41_encode.md R124, R126 to R128; 42_decode.md R145, R147, R148, R150). -/

namespace Sys2Proof.Machine

/-- `(b + k) mod 256` (R126, R128): the sum wraps, no flag records it. -/
def shiftByte (b k : Byte) : Byte := b + k

/-- `(s - k) mod 256` (R145, R150): the difference wraps, no flag records it. -/
def unshiftByte (s k : Byte) : Byte := s - k

/-- `sym(g, j) = g[23-3j : 21-3j]` (R65, R124). -/
def sym (g : Group) (j : Nat) : Sym := g.extractLsb' (21 - 3 * j) 3

/-- Byte `k` of a group, `g[23-8k : 16-8k]` (R65, R148). -/
def groupByte (g : Group) (k : Nat) : Byte := g.extractLsb' (16 - 8 * k) 8

/-- `place(s, k) = s << (16 - 8k)` for `k` in 0..2 (R124, R126); a free value for a `GCNT` above 2 (log 7). -/
def place (s : Byte) (k : BitVec 3) : Group :=
  if k.toNat ≤ 2 then s.setWidth 24 <<< (16 - 8 * k.toNat) else Config.placeOutside s k

/-- `i << (21 - 3*GCNT)`, `GCNT` in 0..7 (R147). -/
def placeSym (i : Sym) (n : BitVec 3) : Group := i.setWidth 24 <<< (21 - 3 * n.toNat)

/-- The number of symbols `ENCE` flushes: 0, 3, 6 for `GCNT` = 0, 1, 2 (R124 `nsym`, R127); a free value above (log 7). -/
def flushSymbols (k : BitVec 3) : Nat :=
  if k = 0 then 0 else if k = 1 then 3 else if k = 2 then 6 else (Config.flushOutside k).val

/-- The number of whole bytes `DECE` flushes: `(3 * GCNT) div 8` (R148). -/
def flushBytes (k : BitVec 3) : Nat := 3 * k.toNat / 8

/-- `zext_21(p)`: a plain byte as a result item (R31, R145). -/
def zext21 (p : Byte) : Chr := p.setWidth 21

/-- `zext_32(v)`: a result item as response data (R68, R182). -/
def zext32 (v : Chr) : Word := v.setWidth 32

/-- `KIDX <- (KIDX + 1) mod KEYLEN` (R29); a free value for `KEYLEN = 0` (log 7). -/
def nextKidx (kidx keylen : BitVec 8) : BitVec 8 :=
  if keylen = 0 then Config.kidxNoKey kidx else BitVec.ofNat 8 ((kidx.toNat + 1) % keylen.toNat)

end Sys2Proof.Machine
end

