-- ==== Sys2Proof/Machine/Utf8.lean ====
section
/-! DEFINITION. The UTF-8 validation machine (spec/43_utf8.md R162), and what it decides: well-formed UTF-8 by the table of
R160. The spec takes both tables from general knowledge and fixes the strict reading by decision D12 (log 9). -/

namespace Sys2Proof.Machine

/-- The transition from `S0` on a byte (R162). -/
def u8Lead (p : Byte) : U8 :=
  if p ≤ 0x7F#8 then .s0
  else if p ≤ 0xC1#8 then .bad
  else if p ≤ 0xDF#8 then .s1
  else if p = 0xE0#8 then .se0
  else if p ≤ 0xEC#8 then .s2
  else if p = 0xED#8 then .sed
  else if p ≤ 0xEF#8 then .s2
  else if p = 0xF0#8 then .sf0
  else if p ≤ 0xF3#8 then .s3
  else if p = 0xF4#8 then .sf4
  else .bad

/-- The transition from a waiting state: `next` for a byte in `lo..hi`, else `BAD` (R162). -/
def u8Cont (lo hi : Byte) (next : U8) (p : Byte) : U8 :=
  if lo ≤ p ∧ p ≤ hi then next else .bad

/-- `u8_next(state, p)` (R162). -/
def u8Next : U8 → Byte → U8
  | .s0, p => u8Lead p
  | .s1, p => u8Cont 0x80#8 0xBF#8 .s0 p
  | .s2, p => u8Cont 0x80#8 0xBF#8 .s1 p
  | .s3, p => u8Cont 0x80#8 0xBF#8 .s2 p
  | .se0, p => u8Cont 0xA0#8 0xBF#8 .s1 p
  | .sed, p => u8Cont 0x80#8 0x9F#8 .s1 p
  | .sf0, p => u8Cont 0x90#8 0xBF#8 .s2 p
  | .sf4, p => u8Cont 0x80#8 0x8F#8 .s2 p
  | .bad, _ => .bad

/-- The machine folded over a byte sequence from `S0` (R168). -/
def u8Run (bytes : List Byte) : U8 := bytes.foldl u8Next .s0

/-- The table of R160, row by row: the range of each byte of a well-formed sequence. -/
def utf8Table : List (List (Byte × Byte)) :=
  [[(0x00, 0x7F)],
   [(0xC2, 0xDF), (0x80, 0xBF)],
   [(0xE0, 0xE0), (0xA0, 0xBF), (0x80, 0xBF)],
   [(0xE1, 0xEC), (0x80, 0xBF), (0x80, 0xBF)],
   [(0xED, 0xED), (0x80, 0x9F), (0x80, 0xBF)],
   [(0xEE, 0xEF), (0x80, 0xBF), (0x80, 0xBF)],
   [(0xF0, 0xF0), (0x90, 0xBF), (0x80, 0xBF), (0x80, 0xBF)],
   [(0xF1, 0xF3), (0x80, 0xBF), (0x80, 0xBF), (0x80, 0xBF)],
   [(0xF4, 0xF4), (0x80, 0x8F), (0x80, 0xBF), (0x80, 0xBF)]]

/-- A byte sequence matches a row: as many bytes as ranges, each byte in its range (R160). -/
def matchesRow : List Byte → List (Byte × Byte) → Bool
  | [], [] => true
  | p :: ps, r :: rs => decide (r.1 ≤ p ∧ p ≤ r.2) && matchesRow ps rs
  | _, _ => false

/-- `utf8_valid(bytes)`: a concatenation of zero or more sequences, each matching one row of the table (R160). -/
def utf8Valid (bytes : List Byte) : Prop :=
  ∃ qs : List (List Byte), (∀ q ∈ qs, ∃ row ∈ utf8Table, matchesRow q row = true) ∧ qs.flatten = bytes

end Sys2Proof.Machine
end

