-- ==== Sys2Proof/Machine/Ops.lean ====
section
/-! DEFINITION. The named operations over the state: the response (spec/30_encoding.md R89), taking a fault and returning
from one (60_exceptions.md R212, R226), the checks before a command's own (R224 steps 3 and 4), the reads of ALPHA and KEY
(20_memory.md R61, R62, R75), the appends to RB (R63), and the internal action EmitByte (42_decode.md R145). -/

namespace Sys2Proof.Machine

namespace State

/-- `rsp(f, d)`: the response of the command (R8, R89). -/
def answer (f : Bool) (d : Word) (s : State) : State := { s with rsp := some ⟨f, d⟩ }

/-- `rsp(0, 0)`: the response of a command that returns no data and raised no fault (R89). -/
def ok (s : State) : State := s.answer false 0

/-- `raise Fault(c)` (R212): the first fault wins (R213), the response is `rsp(1, 0)`. The ONE operation that takes a fault. -/
def raise (c : FCause) (s : State) : State :=
  { s with fcause := if s.fcause = .noFault then c else s.fcause, rsp := some ⟨true, 0⟩ }

/-- Refusal (R214): no state changes, the response is `rsp(1, 0)`. -/
def refuse (s : State) : State := s.answer true 0

/-- Fault return (R226) and end of a call: what `CLR` clears (R101); the configuration stays. -/
def clearTransaction (s : State) : State :=
  { s with
    mode := .idle, verdict := .none, fcause := .noFault, grp := 0, gcnt := 0, kidx := 0, u8 := .s0, rb := [], rkind := .chars }

/-- Every state element at its reset value (R41, R240); the parameters stay, the inputs still waiting stay, and no response
is left (log 5). -/
def restart (s : State) : State := { State.resetWith s.params with port := s.port }

/-- A read of `ALPHA[i]` (R61, R75). An entry that holds no value reads as a free value (R42, U9, log 6). -/
def alphaRead (s : State) (i : Sym) : Chr := (s.alpha[i.toNat]'i.isLt).getD (Config.alphaNoValue i)

/-- The alphabet `[ALPHA[0], ..., ALPHA[7]]` (R104). -/
def alphabet (s : State) : Alphabet :=
  #v[s.alphaRead 0, s.alphaRead 1, s.alphaRead 2, s.alphaRead 3, s.alphaRead 4, s.alphaRead 5, s.alphaRead 6, s.alphaRead 7]

/-- A read of `KEY[j]` (R62, R75). An entry that holds no value reads as a free value (R42, U9, log 6). -/
def keyRead (s : State) (j : BitVec 8) : Byte := (s.key[j.toNat]?).join.getD (Config.keyNoValue j)

/-- The key bytes `[KEY[0], ..., KEY[KEYLEN-1]]` in order (R24). -/
def keyBytes (s : State) : List Byte := (List.range s.keylen.toNat).map fun j => s.keyRead (BitVec.ofNat 8 j)

/-- The character match `lut_match(ch)` (R144): the index of the entry equal to `ch`, the lowest one, if there is one. -/
def lutMatch (s : State) (ch : Chr) : Option Sym :=
  [0#3, 1#3, 2#3, 3#3, 4#3, 5#3, 6#3, 7#3].find? fun i => s.alphaRead i == ch

/-- `RCOUNT + n <= RBMAX`: `RB` has room for `n` more items (R222). -/
def hasRoom (s : State) (n : Nat) : Bool := s.rb.length + n ≤ s.params.rbMax

/-- `for j = 0 to n - 1: RB.push( ALPHA[ g[23-3j : 21-3j] ] )` (R126, R127). -/
def pushSymbols (g : Group) (n : Nat) (s : State) : State :=
  { s with rb := s.rb ++ (List.range n).map fun j => s.alphaRead (sym g j) }

/-- `GRP` and `GCNT` written together (R126, R127, R147, R148). -/
def setGroup (g : Group) (n : BitVec 3) (s : State) : State := { s with grp := g, gcnt := n }

/-- `KIDX <- (KIDX + 1) mod KEYLEN` (R29). -/
def advanceKey (s : State) : State := { s with kidx := nextKidx s.kidx s.keylen }

/-- `EmitByte(x)` (R145): unshift, advance `KIDX` and `U8`, append the plain byte. -/
def emitByte (s : State) (x : Byte) : State :=
  { s with
    kidx := nextKidx s.kidx s.keylen
    u8 := u8Next s.u8 (unshiftByte x (s.keyRead s.kidx))
    rb := s.rb ++ [zext21 (unshiftByte x (s.keyRead s.kidx))] }

/-- Several `EmitByte` in a row: bytes 0 to `n - 1` of the group `g`; each sees what the previous one left (R145). -/
def emitBytes (g : Group) (n : Nat) (s : State) : State :=
  ((List.range n).map (groupByte g)).foldl emitByte s

/-- A command word waiting at the port, in front of what waits already. -/
def offer (w : Word) (s : State) : State := { s with port := .command w :: s.port }

end State

/-- The checks before a command's own (R224 steps 3 and 4) for a command legal in the one mode `m` (R92): refused while
faulted (R214), else `SeqError` outside `m` (R218), else the command's pseudocode. -/
def inMode (m : Mode) (body : State → State) (s : State) : State :=
  if s.fcause ≠ .noFault then s.refuse
  else if s.mode ≠ m then s.raise .seqError
  else body s

end Sys2Proof.Machine
end

