-- ==== Sys2Proof/Machine/Configure.lean ====
section
/-! DEFINITION. Reset and configuration commands: SRST, CLR, LDA, CHKA, KCLR, KPUSH, SETL (spec/40_config.md). -/

namespace Sys2Proof.Machine

/-- `SRST` (R100): exactly hardware reset; legal in every mode, faulted or not. -/
def execSrst (s : State) : Host.Outcome State Fault Refusal := .next s.restart.ok

/-- `CLR` (R101): clears transaction and fault; legal in every mode, faulted or not. -/
def execClr (s : State) : Host.Outcome State Fault Refusal := .next s.clearTransaction.ok

/-- The pseudocode of `LDA idx, ch` (R102). -/
def ldaBody (idx : Sym) (ch : Chr) (s : State) : State :=
  { s with
    alpha := s.alpha.set idx.toNat (some ch) idx.isLt
    aloaded := setLoaded s.aloaded idx
    alphaOk := false }.ok

/-- `LDA idx, ch` (R102). -/
def execLda (idx : Sym) (ch : Chr) (s : State) : Host.Outcome State Fault Refusal :=
  .next (inMode .idle (ldaBody idx ch) s)

/-- The pseudocode of `CHKA` (R104): every slot loaded and `checkCharset` of the eight entries (R103). A failing check also
clears `ALPHA_OK` (R212). -/
def chkaBody (s : State) : State :=
  if s.aloaded ≠ 0xFF#8 then { s with alphaOk := false }.raise .invalidAlphabet
  else if checkCharset s.alphabet.toList = false then { s with alphaOk := false }.raise .invalidAlphabet
  else { s with alphaOk := true }.ok

/-- `CHKA` (R104). -/
def execChka (s : State) : Host.Outcome State Fault Refusal := .next (inMode .idle chkaBody s)

/-- The pseudocode of `KCLR` (R105): every entry loses its value. -/
def kclrBody (s : State) : State :=
  { s with keylen := 0, key := List.replicate s.key.length Option.none }.ok

/-- `KCLR` (R105). -/
def execKclr (s : State) : Host.Outcome State Fault Refusal := .next (inMode .idle kclrBody s)

/-- The pseudocode of `KPUSH b` (R106): `KeyOverflow` when the array is full, before any write. -/
def kpushBody (b : Byte) (s : State) : State :=
  if s.keylen.toNat = s.params.keyMax then s.raise .keyOverflow
  else { s with key := s.key.set s.keylen.toNat (some b), keylen := s.keylen + 1 }.ok

/-- `KPUSH b` (R106). -/
def execKpush (b : Byte) (s : State) : Host.Outcome State Fault Refusal := .next (inMode .idle (kpushBody b) s)

/-- The pseudocode of `SETL v` (R107). -/
def setlBody (v : BitVec 1) (s : State) : State := { s with legacy := v == 1#1 }.ok

/-- `SETL v` (R107). -/
def execSetl (v : BitVec 1) (s : State) : Host.Outcome State Fault Refusal := .next (inMode .idle (setlBody v) s)

end Sys2Proof.Machine
end

