-- ==== Sys2Proof/Machine/EncodePath.lean ====
section
/-! DEFINITION. The encode path: ENCB, ENCP, ENCE (spec/41_encode.md section 3). -/

namespace Sys2Proof.Machine

/-- The checks that open a transaction, alphabet first, then the key (R125, R146, R224), and the mode it enters. -/
def beginTransaction (m : Mode) (k : RKind) (s : State) : State :=
  if s.alphaOk = false then s.raise .alphabetNotReady
  else if s.keylen = 0 then s.raise .keyEmpty
  else { s with mode := m, rkind := k }.ok

/-- `ENCB` (R125). -/
def execEncb (s : State) : Host.Outcome State Fault Refusal :=
  .next (inMode .idle (beginTransaction .enc .chars) s)

/-- The group register after the shifted byte of `b` is put into it: `GRP | (s << (16 - 8*GCNT))` (R126). -/
def encGroup (b : Byte) (s : State) : Group := s.grp ||| place (shiftByte b (s.keyRead s.kidx)) s.gcnt

/-- The pseudocode of `ENCP b` (R126): the third byte empties the group into eight characters, if `RB` has room for them;
`ResultOverflow` is raised before any write. -/
def encpBody (b : Byte) (s : State) : State :=
  if s.gcnt = 2 then
    if s.hasRoom 8 = false then s.raise .resultOverflow
    else (((s.pushSymbols (encGroup b s) 8).setGroup 0 0).advanceKey).ok
  else ((s.setGroup (encGroup b s) (s.gcnt + 1)).advanceKey).ok

/-- `ENCP b` (R126). -/
def execEncp (b : Byte) (s : State) : Host.Outcome State Fault Refusal := .next (inMode .enc (encpBody b) s)

/-- The pseudocode of `ENCE` (R127): flush the short group, close the transaction. -/
def enceBody (s : State) : State :=
  if s.hasRoom (flushSymbols s.gcnt) = false then s.raise .resultOverflow
  else { ((s.pushSymbols s.grp (flushSymbols s.gcnt)).setGroup 0 0) with mode := .done, verdict := .ok }.ok

/-- `ENCE` (R127). -/
def execEnce (s : State) : Host.Outcome State Fault Refusal := .next (inMode .enc enceBody s)

end Sys2Proof.Machine
end

