-- ==== Sys2Proof/Machine/DecodePath.lean ====
section
/-! DEFINITION. The decode path: DECB, DECP, DECE (spec/42_decode.md section 3). -/

namespace Sys2Proof.Machine

/-- `DECB` (R146). -/
def execDecb (s : State) : Host.Outcome State Fault Refusal :=
  .next (inMode .idle (beginTransaction .dec .bytes) s)

/-- The group register after the symbol `i` is put into it: `GRP | (i << (21 - 3*GCNT))` (R147). -/
def decGroup (i : Sym) (s : State) : Group := s.grp ||| placeSym i s.gcnt

/-- `DECP` on a character found at index `i` (R147): the eighth symbol empties the group into three plain bytes, if `RB` has
room for them; `ResultOverflow` is raised before any write. -/
def decpFound (i : Sym) (s : State) : State :=
  if s.gcnt = 7 then
    if s.hasRoom 3 = false then s.raise .resultOverflow
    else ((s.emitBytes (decGroup i s) 3).setGroup 0 0).ok
  else (s.setGroup (decGroup i s) (s.gcnt + 1)).ok

/-- The pseudocode of `DECP ch` (R147): a character that is not in the alphabet is silently skipped. -/
def decpBody (ch : Chr) (s : State) : State :=
  match s.lutMatch ch with
  | Option.none => s.ok
  | some i => decpFound i s

/-- `DECP ch` (R147). -/
def execDecp (ch : Chr) (s : State) : Host.Outcome State Fault Refusal := .next (inMode .dec (decpBody ch) s)

/-- The verdict, taken after the last byte (R148, R163): `OK`, or `LEGACY` with the bytes kept, or `MalformedUtf8` with the
result emptied. The one fault whose command still writes other state (R212). -/
def giveVerdict (s : State) : State :=
  if s.u8 = .s0 then { s with verdict := .ok }.ok
  else if s.legacy = true then { s with verdict := .legacy }.ok
  else { s with rb := [], verdict := .malformed }.raise .malformedUtf8

/-- The pseudocode of `DECE` (R148): flush the whole bytes, discard the remaining bits, close, give the verdict. -/
def deceBody (s : State) : State :=
  if s.hasRoom (flushBytes s.gcnt) = false then s.raise .resultOverflow
  else giveVerdict { ((s.emitBytes s.grp (flushBytes s.gcnt)).setGroup 0 0) with mode := .done }

/-- `DECE` (R148). -/
def execDece (s : State) : Host.Outcome State Fault Refusal := .next (inMode .dec deceBody s)

end Sys2Proof.Machine
end

