-- ==== Sys2Proof/Machine/Result.lean ====
section
/-! DEFINITION. Status and result commands: RDST, RDN, POP (spec/44_result.md). -/

namespace Sys2Proof.Machine

/-- `RDST` (R180): legal in every mode, faulted or not; no state changes. -/
def execRdst (s : State) : Host.Outcome State Fault Refusal := .next (s.answer false s.status)

/-- `RDN` (R181): legal in every mode, faulted or not; no state changes. -/
def execRdn (s : State) : Host.Outcome State Fault Refusal := .next (s.answer false s.rcount)

/-- The pseudocode of `POP` (R182): remove and return the head of `RB`; `ResultEmpty` when nothing is left. -/
def popBody (s : State) : State :=
  match s.rb with
  | [] => s.raise .resultEmpty
  | v :: rest => { s with rb := rest }.answer false (zext32 v)

/-- `POP` (R182). -/
def execPop (s : State) : Host.Outcome State Fault Refusal := .next (inMode .done popBody s)

end Sys2Proof.Machine
end

