-- ==== Sys2Proof/Machine/Dispatch.lean ====
section
/-! DEFINITION. One arm per command (spec/30_encoding.md R83). -/

namespace Sys2Proof.Machine

def exec (i : Instr) (s : State) : Host.Outcome State Fault Refusal :=
  match i with
  | .srst => Sys2Proof.Machine.execSrst s
  | .clr => Sys2Proof.Machine.execClr s
  | .lda idx ch => Sys2Proof.Machine.execLda idx ch s
  | .chka => Sys2Proof.Machine.execChka s
  | .kclr => Sys2Proof.Machine.execKclr s
  | .kpush b => Sys2Proof.Machine.execKpush b s
  | .setl v => Sys2Proof.Machine.execSetl v s
  | .encb => Sys2Proof.Machine.execEncb s
  | .encp b => Sys2Proof.Machine.execEncp b s
  | .ence => Sys2Proof.Machine.execEnce s
  | .decb => Sys2Proof.Machine.execDecb s
  | .decp ch => Sys2Proof.Machine.execDecp ch s
  | .dece => Sys2Proof.Machine.execDece s
  | .rdst => Sys2Proof.Machine.execRdst s
  | .rdn => Sys2Proof.Machine.execRdn s
  | .pop => Sys2Proof.Machine.execPop s

end Sys2Proof.Machine
end

