-- ==== Sys2Proof/Machine/Port.lean ====
section
/-! DEFINITION. The command port: what the BSA does with one input (spec/30_encoding.md R80; 60_exceptions.md R224 steps 1
and 2; 70_reset_and_hazards.md R240). -/

namespace Sys2Proof.Machine

/-- A command word: decode it, raise `IllegalCommand` for an illegal one (R85, R217, R224 step 1), else execute it. -/
def takeCommand (w : Word) (s : State) : Host.Outcome State Fault Refusal :=
  match decode w with
  | .ok i => exec i s
  | .error _ => .next (s.raise .illegalCommand)

/-- One input: a command word, or hardware reset (R240, log 5). -/
def takeInput (x : Input) (s : State) : Host.Outcome State Fault Refusal :=
  match x with
  | .command w => takeCommand w s
  | .hardReset => .next s.restart

/-- The oldest input waiting at the port is taken; with none waiting nothing changes (log 1). -/
def takeNext (s : State) : Host.Outcome State Fault Refusal :=
  match s.port with
  | [] => .next s
  | x :: rest => takeInput x { s with port := rest }

end Sys2Proof.Machine
end

