-- ==== Sys2Proof/Machine/Step.lean ====
section
/-! DEFINITION. One step: the BSA takes one input from the port (spec/00_scope.md R2, R10; 20_memory.md R71). -/

namespace Sys2Proof.Machine

/-- One step of the machine. -/
def step (s : State) : Host.Outcome State Fault Refusal := takeNext s

/-- The command word `w` presented as the next one at the port (log 3); nothing else changes. -/
def State.withFetchWord (s : State) (nbits w : Nat) : State := s.offer (tableWord nbits w)

end Sys2Proof.Machine
end

