-- ==== Sys2Proof/WellFormed.lean ====
section
/-! DEFINITION. Source commands as a host writes them, operands as plain numbers (spec/30_encoding.md R90), with the five
pseudo-commands of R91, and the check that tells a well-formed one from an assembler error. A term of `Instr` is well
formed by its type. -/

namespace Sys2Proof

/-- One command line of R90 or R91: a mnemonic with its operands, not yet checked. -/
inductive Source where
  | srst
  | clr
  | lda (idx ch : Nat)
  | chka
  | kclr
  | kpush (b : Nat)
  | setl (v : Nat)
  | encb
  | encp (b : Nat)
  | ence
  | decb
  | decp (ch : Nat)
  | dece
  | rdst
  | rdn
  | pop
  /-- `ALPHABET "c0...c7"` (R91) -/
  | alphabet (cs : List Nat)
  /-- `KEYBYTES b0, ..., bn-1` (R91) -/
  | keybytes (bs : List Nat)
  /-- `ENCODE b0, ..., bn-1` (R91) -/
  | encode (bs : List Nat)
  /-- `DECODE "c0...cm-1"` (R91) -/
  | decode (cs : List Nat)
  /-- `DRAIN` (R91) -/
  | drain
  deriving DecidableEq, Repr

namespace Source

/-- R90: `b` is 0 to 255. -/
def byteOk (b : Nat) : Bool := b < 256

/-- R90: `ch` is 0 to 0x1FFFFF. -/
def chrOk (c : Nat) : Bool := c < 2097152

/-- R90: "An operand out of range is an assembler error, not an encoding"; R91: an `ALPHABET` string has exactly eight
characters, `KEYBYTES` has at least one byte. -/
def wellFormed : Source → Bool
  | .lda idx ch => (idx < 8 : Bool) && chrOk ch
  | .kpush b => byteOk b
  | .setl v => v < 2
  | .encp b => byteOk b
  | .decp ch => chrOk ch
  | .alphabet cs => cs.length == 8 && cs.all chrOk
  | .keybytes bs => !bs.isEmpty && bs.all byteOk
  | .encode bs => bs.all byteOk
  | .decode cs => cs.all chrOk
  | .srst | .clr | .chka | .kclr | .encb | .ence | .decb | .dece | .rdst | .rdn | .pop | .drain => true

end Source

/-- A command as the source line that names it. -/
def Instr.toSource : Instr → Source
  | .srst => .srst
  | .clr => .clr
  | .lda idx ch => .lda idx.toNat ch.toNat
  | .chka => .chka
  | .kclr => .kclr
  | .kpush b => .kpush b.toNat
  | .setl v => .setl v.toNat
  | .encb => .encb
  | .encp b => .encp b.toNat
  | .ence => .ence
  | .decb => .decb
  | .decp ch => .decp ch.toNat
  | .dece => .dece
  | .rdst => .rdst
  | .rdn => .rdn
  | .pop => .pop

end Sys2Proof
end

