-- ==== Sys2Proof/Machine/Assembler.lean ====
section
/-! DEFINITION. The spec's textual form of commands and its pseudo-commands (spec/30_encoding.md R90, R91): from text to
source commands, and from a well-formed source command to commands. Log 11. -/

namespace Sys2Proof.Machine

/-- The commands a source command stands for (R91). `rdn` is the count that the `RDN` of a `DRAIN` returns. -/
def expand (rdn : Nat) : Source → List Instr
  | .srst => [.srst]
  | .clr => [.clr]
  | .lda idx ch => [.lda (BitVec.ofNat 3 idx) (BitVec.ofNat 21 ch)]
  | .chka => [.chka]
  | .kclr => [.kclr]
  | .kpush b => [.kpush (BitVec.ofNat 8 b)]
  | .setl v => [.setl (BitVec.ofNat 1 v)]
  | .encb => [.encb]
  | .encp b => [.encp (BitVec.ofNat 8 b)]
  | .ence => [.ence]
  | .decb => [.decb]
  | .decp ch => [.decp (BitVec.ofNat 21 ch)]
  | .dece => [.dece]
  | .rdst => [.rdst]
  | .rdn => [.rdn]
  | .pop => [.pop]
  | .alphabet cs => (cs.zipIdx.map fun p => Instr.lda (BitVec.ofNat 3 p.2) (BitVec.ofNat 21 p.1)) ++ [.chka]
  | .keybytes bs => .kclr :: bs.map fun b => Instr.kpush (BitVec.ofNat 8 b)
  | .encode bs => .encb :: ((bs.map fun b => Instr.encp (BitVec.ofNat 8 b)) ++ [.ence])
  | .decode cs => .decb :: ((cs.map fun c => Instr.decp (BitVec.ofNat 21 c)) ++ [.dece])
  | .drain => .rdn :: List.replicate rdn .pop

/-- Assemble one source command: none for an assembler error (R90). -/
def assemble (rdn : Nat) (l : Source) : Option (List Instr) :=
  if l.wellFormed then some (expand rdn l) else Option.none

/-- A token of a command line. -/
inductive Token where
  /-- a run of other characters: a mnemonic or a number -/
  | word (cs : List Char)
  /-- a quoted character, its code point -/
  | quoted (c : Nat)
  /-- a quoted string, its code points -/
  | str (cs : List Nat)
  /-- one space -/
  | space
  /-- the separator of operands, a comma and a space -/
  | comma
  deriving DecidableEq, Repr

/-- What is being read: nothing, a word (its characters so far, the last first), or a string. -/
inductive LexState where
  | start
  | word (rev : List Char)
  | str (rev : List Nat)
  deriving DecidableEq, Repr

/-- The token of a word that ends here. -/
def LexState.flush : LexState → List Token
  | .word rev => [.word rev.reverse]
  | _ => []

/-- A word grows by one character. -/
def LexState.grow : LexState → Char → LexState
  | .word rev, c => .word (c :: rev)
  | _, c => .word [c]

/-- The tokens of a line; `;` starts a comment (R90). None for an unfinished string. DESIGN CHOICE (log 11): R90 and R91 name no
escape, so there is none: a string ends at the first double quote after the one that opens it, a backslash is a character like
any other, and inside a string or between single quotes `;` starts no comment. A string with a double quote in it cannot be
written as text; as a `Source` it can. -/
def lexLine : LexState → List Char → Option (List Token)
  | .str _, [] => Option.none
  | st, [] => some st.flush
  | .str rev, '"' :: cs => (lexLine .start cs).map (Token.str rev.reverse :: ·)
  | .str rev, c :: cs => lexLine (.str (c.toNat :: rev)) cs
  | st, ';' :: _ => some st.flush
  | st, '\'' :: c :: '\'' :: cs => (lexLine .start cs).map ((st.flush ++ [Token.quoted c.toNat]) ++ ·)
  | st, '"' :: cs => (lexLine (.str []) cs).map (st.flush ++ ·)
  | st, ',' :: ' ' :: cs => (lexLine .start cs).map ((st.flush ++ [Token.comma]) ++ ·)
  | st, ' ' :: cs => (lexLine .start cs).map ((st.flush ++ [Token.space]) ++ ·)
  | st, c :: cs => lexLine (st.grow c) cs

/-- The value of a digit in base 16, capitals too. -/
def digitVal (c : Char) : Option Nat :=
  if 48 ≤ c.toNat ∧ c.toNat ≤ 57 then some (c.toNat - 48)
  else if 97 ≤ c.toNat ∧ c.toNat ≤ 102 then some (c.toNat - 87)
  else if 65 ≤ c.toNat ∧ c.toNat ≤ 70 then some (c.toNat - 55)
  else Option.none

/-- Digits in a base, the most significant first. -/
def digitsVal (base : Nat) : Nat → List Char → Option Nat
  | acc, [] => some acc
  | acc, c :: cs =>
    match digitVal c with
    | some d => if d < base then digitsVal base (acc * base + d) cs else Option.none
    | Option.none => Option.none

/-- A number: decimal, or hexadecimal after `0x` (R90). -/
def numberVal : List Char → Option Nat
  | [] => Option.none
  | '0' :: 'x' :: [] => Option.none
  | '0' :: 'x' :: c :: cs => digitsVal 16 0 (c :: cs)
  | c :: cs => digitsVal 10 0 (c :: cs)

/-- A number operand. -/
def numOperand : Token → Option Nat
  | .word cs => numberVal cs
  | _ => Option.none

/-- A character operand: a number or a quoted character (R90). -/
def chrOperand : Token → Option Nat
  | .quoted c => some c
  | t => numOperand t

/-- Operands separated by `, `. -/
def operands : List Token → Option (List Token)
  | [] => some []
  | [t] => some [t]
  | t :: .comma :: u :: rest => (operands (u :: rest)).map (t :: ·)
  | _ => Option.none

/-- The numbers of an operand list. -/
def numbers : List Token → Option (List Nat)
  | [] => some []
  | t :: ts =>
    match numOperand t, numbers ts with
    | some n, some ns => some (n :: ns)
    | _, _ => Option.none

/-- A mnemonic with its operands as a source command (R90, R91). -/
def sourceOf (mnemonic : List Char) (args : List Token) : Option Source :=
  match mnemonic, args with
  | ['S', 'R', 'S', 'T'], [] => some .srst
  | ['C', 'L', 'R'], [] => some .clr
  | ['L', 'D', 'A'], [i, c] =>
    match numOperand i, chrOperand c with
    | some i, some c => some (.lda i c)
    | _, _ => Option.none
  | ['C', 'H', 'K', 'A'], [] => some .chka
  | ['K', 'C', 'L', 'R'], [] => some .kclr
  | ['K', 'P', 'U', 'S', 'H'], [b] => (numOperand b).map .kpush
  | ['S', 'E', 'T', 'L'], [v] => (numOperand v).map .setl
  | ['E', 'N', 'C', 'B'], [] => some .encb
  | ['E', 'N', 'C', 'P'], [b] => (numOperand b).map .encp
  | ['E', 'N', 'C', 'E'], [] => some .ence
  | ['D', 'E', 'C', 'B'], [] => some .decb
  | ['D', 'E', 'C', 'P'], [c] => (chrOperand c).map .decp
  | ['D', 'E', 'C', 'E'], [] => some .dece
  | ['R', 'D', 'S', 'T'], [] => some .rdst
  | ['R', 'D', 'N'], [] => some .rdn
  | ['P', 'O', 'P'], [] => some .pop
  | ['A', 'L', 'P', 'H', 'A', 'B', 'E', 'T'], [.str cs] => some (.alphabet cs)
  | ['K', 'E', 'Y', 'B', 'Y', 'T', 'E', 'S'], bs => (numbers bs).map .keybytes
  | ['E', 'N', 'C', 'O', 'D', 'E'], bs => (numbers bs).map .encode
  | ['D', 'E', 'C', 'O', 'D', 'E'], [.str cs] => some (.decode cs)
  | ['D', 'R', 'A', 'I', 'N'], [] => some .drain
  | _, _ => Option.none

/-- The tokens of a line without the spaces before a comment or the end. -/
def dropTrailingSpaces (ts : List Token) : List Token := (ts.reverse.dropWhile (· == .space)).reverse

/-- One line (R90): at most one command, "the mnemonic in capitals; operands after one space". `some []` for a line that
holds no command. -/
def parseLine (line : List Char) : Option (List Source) :=
  match (lexLine .start line).map dropTrailingSpaces with
  | some [] => some []
  | some [.word m] => (sourceOf m []).map ([·])
  | some (.word m :: .space :: rest) =>
    match operands rest with
    | some (a :: as) => (sourceOf m (a :: as)).map ([·])
    | _ => Option.none
  | _ => Option.none

/-- The commands of one line of text: none for an assembler error. -/
def assembleLine (rdn : Nat) (line : List Char) : Option (List Instr) :=
  match parseLine line with
  | some [] => some []
  | some [l] => assemble rdn l
  | _ => Option.none

end Sys2Proof.Machine
end

