-- ==== Sys2Proof/Machine/Datapath.lean ====
section
/-! DEFINITION. The pure functions of the source document over whole sequences (spec/00_scope.md R9): the reference the
commands are measured against (41_encode.md R120 to R123, R130; 42_decode.md R140 to R143, R152). No command calls them. -/

namespace Sys2Proof.Machine

/-- `keyBytes[i mod keyLength]`; a free value for the empty key, where `shift` and `unshift` are undefined (log 8). -/
def keyAt (key : List Byte) (i : Nat) : Byte :=
  key.getD (i % key.length) (Config.noKeyByte i)

/-- `shift` from index `i` on. -/
def shiftFrom (key : List Byte) (i : Nat) : List Byte → List Byte
  | [] => []
  | b :: bs => (b + keyAt key i) :: shiftFrom key (i + 1) bs

/-- `shift(bytes, keyBytes)` (R120): `shiftedBytes[i] = (bytes[i] + keyBytes[i mod keyLength]) mod 256`. -/
def shift (bytes key : List Byte) : List Byte := shiftFrom key 0 bytes

/-- `unshift` from index `i` on. -/
def unshiftFrom (key : List Byte) (i : Nat) : List Byte → List Byte
  | [] => []
  | s :: ss => (s - keyAt key i) :: unshiftFrom key (i + 1) ss

/-- `unshift(shiftedBytes, keyBytes)` (R143): `bytes[i] = (shiftedBytes[i] - keyBytes[i mod keyLength]) mod 256`. -/
def unshift (bytes key : List Byte) : List Byte := unshiftFrom key 0 bytes

/-- A value as its bits, the most significant first (R64). -/
def bitsOf {n : Nat} (v : BitVec n) : Bits := (List.range n).map fun k => v.getLsbD (n - 1 - k)

/-- `joinOctets(bytes)` (R121): each byte as 8 bits, most significant first, concatenated. -/
def joinOctets (bytes : List Byte) : Bits := bytes.flatMap bitsOf

/-- Three bits read as a big-endian number (R122). -/
def tripletOf (a b c : Bool) : Sym := BitVec.ofBool a ++ BitVec.ofBool b ++ BitVec.ofBool c

/-- `splitTriplets(bits)` (R122): 3-bit fields from the left, the last one right-padded with 0. -/
def splitTriplets : Bits → List Sym
  | [] => []
  | [a] => [tripletOf a false false]
  | [a, b] => [tripletOf a b false]
  | a :: b :: c :: rest => tripletOf a b c :: splitTriplets rest

/-- `encodeCharset(symbols, alphabet)` (R123): output character `j` is `alphabet[symbols[j]]`. -/
def encodeCharset (symbols : List Sym) (alphabet : Alphabet) : List Chr :=
  symbols.map fun x => alphabet[x.toNat]'x.isLt

/-- The index of a character in the alphabet, the lowest one, if it is there. -/
def indexIn (alphabet : Alphabet) (c : Chr) : Option Sym :=
  [0#3, 1#3, 2#3, 3#3, 4#3, 5#3, 6#3, 7#3].find? fun x => alphabet[x.toNat]'x.isLt == c

/-- `decodeCharset(chars, alphabet)` (R140): the index of each character that is in the alphabet; the others are skipped. -/
def decodeCharset (chars : List Chr) (alphabet : Alphabet) : List Sym := chars.filterMap (indexIn alphabet)

/-- `joinTriplets(symbols)` (R141): each symbol as 3 bits, concatenated, cut on the right to a multiple of 8 bits. -/
def joinTriplets (symbols : List Sym) : Bits :=
  (symbols.flatMap bitsOf).take (8 * (3 * symbols.length / 8))

/-- Eight bits read as a big-endian number (R142). -/
def octetOf (a b c d e f g h : Bool) : Byte :=
  BitVec.ofBool a ++ BitVec.ofBool b ++ BitVec.ofBool c ++ BitVec.ofBool d ++ BitVec.ofBool e ++ BitVec.ofBool f
    ++ BitVec.ofBool g ++ BitVec.ofBool h

/-- `splitOctets(bits)` (R142): 8-bit fields from the left, a shorter trailing fragment discarded. -/
def splitOctets : Bits → List Byte
  | a :: b :: c :: d :: e :: f :: g :: h :: rest => octetOf a b c d e f g h :: splitOctets rest
  | _ => []

end Sys2Proof.Machine
end

