-- ==== Sys2Proof/Machine/Run.lean ====
section
/-! DEFINITION. A run: a finite sequence of command words applied from a start state; its result is the sequence of responses
and the final state (spec/70_reset_and_hazards.md R245; 20_memory.md R71). -/

namespace Sys2Proof.Machine

/-- The responses of a run whose first command left `t`. -/
def afterFirst (t : State) :
    Host.Outcome (List Response × State) Fault Refusal → Host.Outcome (List Response × State) Fault Refusal
  | .next (rs, u) => .next (t.rsp.toList ++ rs, u)
  | .fault f => .fault f
  | .refused r => .refused r

/-- The run of `ws` from `s`: each word is presented at the port and one step is taken. -/
def runWords : List Word → State → Host.Outcome (List Response × State) Fault Refusal
  | [], s => .next ([], s)
  | w :: ws, s =>
    match step (s.offer w) with
    | .next t => afterFirst t (runWords ws t)
    | .fault f => .fault f
    | .refused r => .refused r

/-- The run of a sequence of commands, each as its encoding. -/
def runInstrs (is : List Instr) (s : State) : Host.Outcome (List Response × State) Fault Refusal :=
  runWords (is.map encode) s

end Sys2Proof.Machine
end

