-- ==== Sys2Proof/Machine/HostContract.lean ====
section
/-! DEFINITION. What the host software owes the BSA and gets back (spec/48_host_contract.md R190 to R199): the derivation of
the key bytes, the text conversions, and the two procedures as command sequences run on the machine. R4 puts these outside
the hardware; they use the machine and the machine does not use them. A text is a list of code points. Log 10. -/

namespace Sys2Proof.Machine

/-- `hexval` of a lowercase hex digit (R192); none for any other character. -/
def hexVal (c : Char) : Option Nat :=
  if '0'.toNat ≤ c.toNat ∧ c.toNat ≤ '9'.toNat then some (c.toNat - '0'.toNat)
  else if 'a'.toNat ≤ c.toNat ∧ c.toNat ≤ 'f'.toNat then some (c.toNat - 'a'.toNat + 10)
  else Option.none

/-- The lowercase hex digit of a value (R190, R192). -/
def hexChar (d : Fin 16) : Char :=
  if d.val < 10 then Char.ofNat ('0'.toNat + d.val) else Char.ofNat ('a'.toNat + (d.val - 10))

/-- A digest as the lowercase hex string R190 asks for. -/
def digestString : List HexPair → List Char
  | [] => []
  | p :: ps => hexChar p.high :: hexChar p.low :: digestString ps

/-- `hash(keyString) -> hexDigestString` (R190). -/
def hashString (text : List Nat) : List Char := digestString (Config.hash text)

/-- Adjacent pairs of hex characters, left to right, each one byte, first character the high digit (R192). None for a digest
outside the hash contract (91_not_in_source.md N9). -/
def hexPairs : List Char → Option (List Byte)
  | [] => some []
  | [_] => Option.none
  | a :: b :: rest =>
    match hexVal a, hexVal b, hexPairs rest with
    | some h, some l, some bs => some (BitVec.ofNat 8 (16 * h + l) :: bs)
    | _, _, _ => Option.none

/-- `deriveBytes(hexDigest)` (R192): the neutral key `[0]` for the empty digest. -/
def deriveBytes (digest : List Char) : Option (List Byte) :=
  match digest with
  | [] => some [0]
  | c :: cs => hexPairs (c :: cs)

/-- The key bytes of a key string; an absent one is hashed as the empty string (R191; 90_conflicts.md C1). It is never none,
since `hashString` keeps the contract of R190. -/
def keyBytesOf (key : Option (List Nat)) : Option (List Byte) := deriveBytes (hashString (key.getD []))

/-- Loading the key (R193). -/
def loadKey (key : List Byte) : List Instr := .kclr :: key.map .kpush

/-- Loading the alphabet (R194): none when the candidate has not 8 characters, which the host reports itself. -/
def loadAlphabet (candidate : List Chr) : Option (List Instr) :=
  if candidate.length = 8 then
    some ((candidate.zipIdx.map fun p => Instr.lda (BitVec.ofNat 3 p.2) p.1) ++ [.chka])
  else Option.none

/-- Setting the legacy-compatibility mode (R195). -/
def setLegacy (enabled : Bool) : Instr := .setl (BitVec.ofBool enabled)

/-- UTF-16 code units to code points, a surrogate pair to the code point it stands for (R196); none for an unpaired
surrogate (91_not_in_source.md N10). -/
def joinSurrogates : List Nat → Option (List Nat)
  | [] => some []
  | h :: rest =>
    if 0xD800 ≤ h ∧ h ≤ 0xDBFF then
      match rest with
      | [] => Option.none
      | l :: rest' =>
        if 0xDC00 ≤ l ∧ l ≤ 0xDFFF then
          (joinSurrogates rest').map ((0x10000 + (h - 0xD800) * 1024 + (l - 0xDC00)) :: ·)
        else Option.none
    else if 0xDC00 ≤ h ∧ h ≤ 0xDFFF then Option.none
    else (joinSurrogates rest).map (h :: ·)

/-- A continuation byte `10xxxxxx` of the low six bits (R196). -/
def contByte (x : Nat) : Byte := BitVec.ofNat 8 (0x80 + x % 64)

/-- The UTF-8 bytes of one code point, by the layout of R196; none for a surrogate and above 0x10FFFF, which are outside its
domain (93_implementation_defined.md U13). -/
def serializeOne (c : Nat) : Option (List Byte) :=
  if c ≤ 0x7F then some [BitVec.ofNat 8 c]
  else if c ≤ 0x7FF then some [BitVec.ofNat 8 (0xC0 + c / 64), contByte c]
  else if 0xD800 ≤ c ∧ c ≤ 0xDFFF then Option.none
  else if c ≤ 0xFFFF then some [BitVec.ofNat 8 (0xE0 + c / 4096), contByte (c / 64), contByte c]
  else if c ≤ 0x10FFFF then
    some [BitVec.ofNat 8 (0xF0 + c / 262144), contByte (c / 4096), contByte (c / 64), contByte c]
  else Option.none

/-- Text to bytes (R196). -/
def serialize : List Nat → Option (List Byte)
  | [] => some []
  | c :: cs =>
    match serializeOne c, serialize cs with
    | some q, some bs => some (q ++ bs)
    | _, _ => Option.none

/-- The low `k` bits of a byte as a number. -/
def lowBits (k : Nat) (b : Byte) : Nat := b.toNat % 2 ^ k

/-- Bytes to text (R197): the inverse of R196, for bytes whose verdict is `OK`; none where the bytes stop short. -/
def deserialize : List Byte → Option (List Nat)
  | [] => some []
  | a :: rest =>
    if a < 0x80#8 then (deserialize rest).map (a.toNat :: ·)
    else
      match rest with
      | [] => Option.none
      | b :: rest2 =>
        if a < 0xE0#8 then (deserialize rest2).map ((lowBits 5 a * 64 + lowBits 6 b) :: ·)
        else
          match rest2 with
          | [] => Option.none
          | c :: rest3 =>
            if a < 0xF0#8 then
              (deserialize rest3).map ((lowBits 4 a * 4096 + lowBits 6 b * 64 + lowBits 6 c) :: ·)
            else
              match rest3 with
              | [] => Option.none
              | d :: rest4 =>
                (deserialize rest4).map
                  ((lowBits 3 a * 262144 + lowBits 6 b * 4096 + lowBits 6 c * 64 + lowBits 6 d) :: ·)

/-- The legacy rendering (R149, R197): one character per byte, the character whose code is the byte value. -/
def rawCharacters (bytes : List Byte) : List Nat := bytes.map BitVec.toNat

/-- The transaction of an encode (R198): `ENCB`, one `ENCP` a byte, `ENCE`. -/
def encodeTransaction (bytes : List Byte) : List Instr := .encb :: (bytes.map .encp ++ [.ence])

/-- The transaction of a decode (R199): `DECB`, one `DECP` a character, `DECE`. -/
def decodeTransaction (chars : List Chr) : List Instr := .decb :: (chars.map .decp ++ [.dece])

/-- The responses and the final state of a run, if no response has the fault bit (R253). -/
def runClean (is : List Instr) (s : State) : Option (List Response × State) :=
  match runInstrs is s with
  | .next (rs, t) => if rs.any (·.flt) then Option.none else some (rs, t)
  | _ => Option.none

/-- `RDN -> c; POP x c; CLR` (R183, R198): the items popped, in order. -/
def drainResult (s : State) : Option (List Chr × State) :=
  match runClean [.rdn] s with
  | some ([r], t) =>
    match runClean (List.replicate r.data.toNat .pop ++ [.clr]) t with
    | some (rs, u) => some (rs.dropLast.map fun x => x.data.setWidth 21, u)
    | Option.none => Option.none
  | _ => Option.none

/-- `encode(text, key)` on the BSA (R198), from `MODE = IDLE` with a checked alphabet: the output string, and the state after
`CLR`. None where a command faulted (a capacity fault), or where the text is outside its domain. -/
def hostEncode (key : Option (List Nat)) (text : List Nat) (s : State) : Option (List Chr × State) :=
  match keyBytesOf key, serialize text with
  | some k, some b =>
    match runClean (loadKey k ++ encodeTransaction b) s with
    | some (_, t) => drainResult t
    | Option.none => Option.none
  | _, _ => Option.none

/-- What `decode` answers (R199): a text, or the failure `MalformedUtf8`. -/
inductive DecodeAnswer where
  | text (t : List Nat)
  | malformedUtf8
  deriving DecidableEq, Repr

/-- `decode(outputString, key)` on the BSA (R199), from `MODE = IDLE` with a checked alphabet and `LEGACY` set as wanted. The
fault of `DECE` is read from `STATUS`. None where another command faulted (a capacity fault). -/
def hostDecode (key : Option (List Nat)) (output : List Chr) (s : State) : Option (DecodeAnswer × State) :=
  match keyBytesOf key with
  | Option.none => Option.none
  | some k =>
    match runInstrs (loadKey k ++ decodeTransaction output) s with
    | .next (_, t) =>
      match runClean [.rdst] t with
      | some ([r], u) =>
        if r.data.extractLsb' 8 4 = 2#4 then
          (runClean [.clr] u).map fun p => (.malformedUtf8, p.2)
        else if r.data.extractLsb' 8 4 = 0#4 then
          match drainResult u with
          | some (items, v) =>
            let bytes : List Byte := items.map fun c => c.setWidth 8
            if r.data.extractLsb' 2 2 = 1#2 then (deserialize bytes).map fun x => (.text x, v)
            else some (.text (rawCharacters bytes), v)
          | Option.none => Option.none
        else Option.none
      | _ => Option.none
    | _ => Option.none

end Sys2Proof.Machine
end

