-- ==== Sys2Proof/Safety.lean ====
section
/-! DEFINITION. What claims about runs are made of: the invariants of spec/10_state.md R40 and the further ones the rules of
the state elements give; when a run has gone wrong or is unfinished (70_reset_and_hazards.md R245); the mode machine
(30_encoding.md R92) and the faults a command can raise (60_exceptions.md R211) as tables. -/

namespace Sys2Proof.Machine

/-- The bits of `GRP` below its `n` filled top bits are 0 (R27, R40 items 4 and 5). -/
abbrev State.GroupClearBelow (s : State) (n : Nat) : Prop := ∀ k < 24 - n, s.grp.getLsbD k = false

/-- `ALPHA[i]` for `i` in 0..7, as the options R42 asks for. -/
def State.alphaEntry (s : State) (i : Sym) : Option Chr := s.alpha[i.toNat]'i.isLt

/-- `KEY[j]`: an entry outside the array holds no value. -/
def State.keyEntry (s : State) (j : Nat) : Option Byte := (s.key[j]?).join

/-- `u` is `s` with values filled in at entries of `ALPHA` and `KEY` that hold none (R42, U9): every other element is the same,
and an entry that holds a value in `s` holds it in `u`. What `u` holds elsewhere is arbitrary. -/
structure State.FilledIn (s u : State) : Prop where
  others : u = { s with alpha := u.alpha, key := u.key }
  keyLength : u.key.length = s.key.length
  alpha : ∀ (i : Sym) (v : Chr), s.alphaEntry i = some v → u.alphaEntry i = some v
  key : ∀ (j : Nat) (v : Byte), s.keyEntry j = some v → u.keyEntry j = some v

/-- The nine invariants of R40, one field each (the eighth's `FCAUSE <= 9` holds by the type of `fcause`). -/
structure State.R40 (s : State) : Prop where
  idleIsClear : s.mode = .idle →
    s.grp = 0 ∧ s.gcnt = 0 ∧ s.kidx = 0 ∧ s.u8 = .s0 ∧ s.rb = [] ∧ s.rkind = .chars ∧ s.verdict = .none
  transactionIsConfigured : s.mode ≠ .idle →
    s.alphaOk = true ∧ s.aloaded = 0xFF#8 ∧ 1 ≤ s.keylen.toNat ∧ s.alphabet.toList.Pairwise (· ≠ ·)
  openHasIndex : s.mode = .enc ∨ s.mode = .dec → s.kidx.toNat < s.keylen.toNat ∧ s.verdict = .none
  encGroup : s.mode = .enc →
    s.gcnt.toNat ≤ 2 ∧ s.u8 = .s0 ∧ s.rkind = .chars ∧ s.rb.length % 8 = 0 ∧ s.GroupClearBelow (8 * s.gcnt.toNat)
  decGroup : s.mode = .dec →
    s.gcnt.toNat ≤ 7 ∧ s.rkind = .bytes ∧ s.rb.length % 3 = 0 ∧ s.GroupClearBelow (3 * s.gcnt.toNat)
  doneIsClosed : s.mode = .done → s.grp = 0 ∧ s.gcnt = 0 ∧ s.verdict ≠ .none
  malformedIffCause : (s.verdict = .malformed ↔ s.fcause = .malformedUtf8) ∧
    (s.verdict = .malformed → s.rb = [] ∧ s.mode = .done)
  capacities : s.keylen.toNat ≤ s.params.keyMax ∧ s.rb.length ≤ s.params.rbMax
  entriesHaveValues : (∀ j < s.keylen.toNat, (s.keyEntry j).isSome = true) ∧
    (∀ i : Sym, s.aloaded.getLsbD i.toNat = true → (s.alphaEntry i).isSome = true)

/-- What the rules of the single elements say of every reachable state beyond R40: the parameters are in range (R5); the key
array has KEYMAX entries and those at `KEYLEN` and above hold no value (R24); an unloaded slot holds no value (R22, R42);
`ALPHA_OK` means a checked alphabet (R23); `U8` stays `S0` in a transaction begun by `ENCB` (R30); the items of a decode are
zero-extended bytes (R31); the combinations of `RKIND`, `VERDICT`, `LEGACY` and `U8` in `DONE` (R148, R183). -/
structure State.Elements (s : State) : Prop where
  params : s.params.InRange
  keyArray : s.key.length = s.params.keyMax
  keyTail : ∀ j, s.keylen.toNat ≤ j → s.keyEntry j = Option.none
  alphaTail : ∀ i : Sym, s.aloaded.getLsbD i.toNat = false → s.alphaEntry i = Option.none
  alphaChecked : s.alphaOk = true → s.aloaded = 0xFF#8 ∧ s.alphabet.toList.Pairwise (· ≠ ·)
  charsMeansS0 : s.rkind = .chars → s.u8 = .s0
  bytesAreBytes : s.rkind = .bytes → ∀ v ∈ s.rb, v.toNat < 256
  doneChars : s.mode = .done → s.rkind = .chars → s.verdict = .ok
  doneBytes : s.mode = .done → s.rkind = .bytes →
    s.verdict = (if s.u8 = .s0 then .ok else if s.legacy = true then .legacy else .malformed)

/-- The invariant of the machine: R40 and the rules of the single elements. -/
structure State.Inv (s : State) : Prop where
  r40 : s.R40
  elements : s.Elements

/-- The BSA is faulted (R36, R210). -/
abbrev State.Faulted (s : State) : Prop := s.fcause ≠ .noFault

/-- A run that stops here has gone wrong (R245). -/
abbrev State.GoneWrong (s : State) : Prop := s.Faulted

/-- A run that stops here has an open transaction and has produced no result (R245). -/
abbrev State.OpenTransaction (s : State) : Prop := s.mode = .enc ∨ s.mode = .dec

/-- A safe end of a call (R245): the transaction is closed and no fault is recorded. -/
abbrev State.CallOver (s : State) : Prop := s.mode = .done ∧ ¬ s.Faulted

/-- Ready to open a transaction: idle, not faulted, an alphabet checked and a key loaded (R125, R146). -/
abbrev State.Ready (s : State) : Prop :=
  s.mode = .idle ∧ s.fcause = .noFault ∧ s.alphaOk = true ∧ 1 ≤ s.keylen.toNat

/-- The four commands that are executed whatever `FCAUSE` and `MODE` hold (R214, R224 step 2). -/
def alwaysLegal : Instr → Bool
  | .srst | .clr | .rdst | .rdn => true
  | .lda _ _ | .chka | .kclr | .kpush _ | .setl _ | .encb | .encp _ | .ence | .decb | .decp _ | .dece | .pop => false

/-- The legality table of R92. -/
def legalIn : Instr → Mode → Bool
  | .srst, _ | .clr, _ | .rdst, _ | .rdn, _ => true
  | .lda _ _, m | .chka, m | .kclr, m | .kpush _, m | .setl _, m | .encb, m | .decb, m => m == .idle
  | .encp _, m | .ence, m => m == .enc
  | .decp _, m | .dece, m => m == .dec
  | .pop, m => m == .done

/-- The last column of R92's table: the next `MODE` of a command that succeeds in `m`. -/
def nextMode : Instr → Mode → Mode
  | .srst, _ | .clr, _ => .idle
  | .rdst, m | .rdn, m => m
  | .lda _ _, _ | .chka, _ | .kclr, _ | .kpush _, _ | .setl _, _ => .idle
  | .encb, _ => .enc
  | .decb, _ => .dec
  | .encp _, _ => .enc
  | .ence, _ => .done
  | .decp _, _ => .dec
  | .dece, _ => .done
  | .pop, _ => .done

/-- The causes a legal command can raise (R211), other than `SeqError`. -/
def ownCauses : Instr → List FCause
  | .chka => [.invalidAlphabet]
  | .dece => [.resultOverflow, .malformedUtf8]
  | .encb | .decb => [.alphabetNotReady, .keyEmpty]
  | .kpush _ => [.keyOverflow]
  | .encp _ | .ence | .decp _ => [.resultOverflow]
  | .pop => [.resultEmpty]
  | .srst | .clr | .lda _ _ | .kclr | .setl _ | .rdst | .rdn => []

end Sys2Proof.Machine
end

