-- ==== Sys2Proof/Certificates/Slice0/Obligations.lean ====
section
/-! DEFINITION. The statements for the provers, from the numbered rules of spec/. -/

open Sys2Proof Sys2Proof.Machine

-- ---------------------------------------------------------------- encoding

/-- 30_encoding.md R88: decode(encode(c)) = c for every command, and encode(decode(w)) = w for every legal word. -/
def Obligations.DecodeInvertsEncode : Prop :=
  (∀ i : Instr, decode (encode i) = .ok i) ∧
  (∀ (w : Word) (i : Instr), decode w = .ok i → encode i = w)

/-- 30_encoding.md R82, R83: the rows are disjoint; a word decodes to a command exactly when it selects a row, the one of that
command's mnemonic; the operands are the fields of R82. -/
def Obligations.OpcodeMapSelects : Prop :=
  (opcodeMap.Pairwise fun a b => ∀ w : Word, ¬ (a.Selects w ∧ b.Selects w)) ∧
  (∀ (w : Word) (i : Instr), decode w = .ok i → ∃ r ∈ opcodeMap, r.mnemonic = i.mnemonic ∧ r.Selects w) ∧
  (∀ (w : Word), ∀ r ∈ opcodeMap, r.Selects w → ∃ i, decode w = .ok i ∧ i.mnemonic = r.mnemonic) ∧
  (∀ (w : Word) idx ch, decode w = .ok (.lda idx ch) → idx = w.extractLsb' 24 3 ∧ ch = w.extractLsb' 0 21) ∧
  (∀ (w : Word) b, decode w = .ok (.kpush b) → b = w.extractLsb' 0 8) ∧
  (∀ (w : Word) v, decode w = .ok (.setl v) → v = w.extractLsb' 0 1) ∧
  (∀ (w : Word) b, decode w = .ok (.encp b) → b = w.extractLsb' 0 8) ∧
  (∀ (w : Word) ch, decode w = .ok (.decp ch) → ch = w.extractLsb' 0 21)

/-- 30_encoding.md R85: the illegal words are exactly those of its clauses (a) to (g), and such a word raises
`IllegalCommand` and has no other effect. -/
def Obligations.IllegalWordsAreExactly : Prop :=
  (∀ w : Word, (∃ e, decode w = .error e) ↔
    (w.extractLsb' 28 4 = 0x0#4) ∨
    (w.extractLsb' 28 4 ∈ [0x1#4, 0x2#4, 0x4#4, 0x5#4, 0x8#4, 0xA#4, 0xB#4, 0xD#4, 0xF#4] ∧ w.extractLsb' 0 28 ≠ 0) ∨
    (w.extractLsb' 28 4 = 0x3#4 ∧ (w.getLsbD 27 = true ∨ w.extractLsb' 21 3 ≠ 0)) ∨
    ((w.extractLsb' 28 4 = 0x6#4 ∨ w.extractLsb' 28 4 = 0x9#4) ∧ w.extractLsb' 8 20 ≠ 0) ∨
    (w.extractLsb' 28 4 = 0x7#4 ∧ w.extractLsb' 1 27 ≠ 0) ∨
    (w.extractLsb' 28 4 = 0xC#4 ∧ w.extractLsb' 21 7 ≠ 0) ∨
    (w.extractLsb' 28 4 = 0xE#4 ∧ w.extractLsb' 0 28 ≠ 0x0000000#28 ∧ w.extractLsb' 0 28 ≠ 0x1000000#28)) ∧
  (∀ (s : State) (w : Word) (rest : List Input) (e : Illegal), s.port = .command w :: rest → decode w = .error e →
    step s = .next { s with
      port := rest
      fcause := if s.fcause = .noFault then .illegalCommand else s.fcause
      rsp := some ⟨true, 0⟩ })

/-- Words written out bit by bit from the format of 30_encoding.md R81 and the rows of R83, with the command each stands for;
the last five are illegal (95_test_vectors.md section 4). -/
def Obligations.WordsWrittenOutDecode : Prop :=
  decode 0b0001_0_000_000_000000000000000000000#32 = .ok .srst ∧
  decode 0b0011_0_111_000_111111111111111111111#32 = .ok (.lda 7 0x1FFFFF) ∧
  decode 0b0110_0_000_000_000000000000010100111#32 = .ok (.kpush 0xA7) ∧
  decode 0b0111_0_000_000_000000000000000000001#32 = .ok (.setl 1) ∧
  decode 0b1001_0_000_000_000000000000011111111#32 = .ok (.encp 0xFF) ∧
  decode 0b1100_0_000_000_000000010000010100010#32 = .ok (.decp 0x20A2) ∧
  decode 0b1110_0_000_000_000000000000000000000#32 = .ok .rdst ∧
  decode 0b1110_0_001_000_000000000000000000000#32 = .ok .rdn ∧
  decode 0b0000_0_000_000_000000000000000000000#32 = .error .opZero ∧
  decode 0b0011_1_000_000_000000000000000110000#32 = .error .ldaReserved ∧
  decode 0b1001_0_000_000_000000000000100000000#32 = .error .byteReserved ∧
  decode 0b1110_0_010_000_000000000000000000000#32 = .error .readSelector ∧
  decode 0b1111_0_000_000_000000000000000000001#32 = .error .operandOnNone

/-- 30_encoding.md section 6: every command, written as a source command with its operands as numbers, assembles to itself;
each pseudo-command assembles to its expansion; a source command is an assembler error exactly when an operand is out of its range, an
`ALPHABET` string has not eight characters, or `KEYBYTES` has no byte. `n` is the count that the `RDN` of a `DRAIN` returns. -/
def Obligations.SourceLinesAssemble : Prop :=
  (∀ (i : Instr) (n : Nat), assemble n i.toSource = some [i]) ∧
  (∀ (n : Nat) (c0 c1 c2 c3 c4 c5 c6 c7 : Chr),
    assemble n (.alphabet [c0.toNat, c1.toNat, c2.toNat, c3.toNat, c4.toNat, c5.toNat, c6.toNat, c7.toNat]) =
      some [.lda 0 c0, .lda 1 c1, .lda 2 c2, .lda 3 c3, .lda 4 c4, .lda 5 c5, .lda 6 c6, .lda 7 c7, .chka]) ∧
  (∀ (n : Nat) (bs : List Byte), bs ≠ [] →
    assemble n (.keybytes (bs.map BitVec.toNat)) = some (.kclr :: bs.map Instr.kpush)) ∧
  (∀ (n : Nat) (bs : List Byte),
    assemble n (.encode (bs.map BitVec.toNat)) = some (.encb :: (bs.map Instr.encp ++ [.ence]))) ∧
  (∀ (n : Nat) (cs : List Chr),
    assemble n (.decode (cs.map BitVec.toNat)) = some (.decb :: (cs.map Instr.decp ++ [.dece]))) ∧
  (∀ n : Nat, assemble n .drain = some (.rdn :: List.replicate n .pop)) ∧
  (∀ n idx ch, assemble n (.lda idx ch) = none ↔ 7 < idx ∨ 0x1FFFFF < ch) ∧
  (∀ n b, assemble n (.kpush b) = none ↔ 255 < b) ∧ (∀ n v, assemble n (.setl v) = none ↔ 1 < v) ∧
  (∀ n b, assemble n (.encp b) = none ↔ 255 < b) ∧ (∀ n ch, assemble n (.decp ch) = none ↔ 0x1FFFFF < ch) ∧
  (∀ n cs, assemble n (.alphabet cs) = none ↔ cs.length ≠ 8 ∨ ∃ ch ∈ cs, 0x1FFFFF < ch) ∧
  (∀ n bs, assemble n (.keybytes bs) = none ↔ bs = [] ∨ ∃ b ∈ bs, 255 < b) ∧
  (∀ n bs, assemble n (.encode bs) = none ↔ ∃ b ∈ bs, 255 < b) ∧
  (∀ n cs, assemble n (.decode cs) = none ↔ ∃ ch ∈ cs, 0x1FFFFF < ch)

-- ---------------------------------------------------------------- the step

/-- A step runs the decoded command: 20_memory.md section 6 and 60_exceptions.md section 3 (the command at the head of the
port is taken, the port moves on to the next word; the port is the model's own, log 1). -/
def Obligations.StepRunsTheDecodedCommand : Prop :=
  ∀ (s : State) (w : Word) (rest : List Input) (i : Instr),
    s.port = .command w :: rest → decode w = .ok i → step s = exec i { s with port := rest }

/-- 70_reset_and_hazards.md section 4 and section 6: every step completes and answers; with no input waiting nothing changes
(the model's choice, log 1). -/
def Obligations.EveryStepAnswers : Prop :=
  (∀ s : State, ∃ t, step s = .next t) ∧
  (∀ s : State, s.port = [] → step s = .next s) ∧
  (∀ (s : State) (w : Word) (rest : List Input), s.port = .command w :: rest →
    ∃ t, step s = .next t ∧ t.port = rest ∧ t.rsp.isSome = true ∧ t.params = s.params)

/-- 30_encoding.md R89: the response is a fault bit and a data word; the fault bit is 1 exactly when the command raised a
fault or was refused, and then the data is 0; else the data is STATUS, RCOUNT, the popped item, or 0. -/
def Obligations.ResponseIsFaultBitAndData : Prop :=
  (∀ (s : State) (w : Word) (rest : List Input) (e : Illegal), s.port = .command w :: rest → decode w = .error e →
    ∃ t, step s = .next t ∧ t.rsp = some ⟨true, 0⟩) ∧
  (∀ (s : State) (w : Word) (rest : List Input) (i : Instr), s.port = .command w :: rest → decode w = .ok i →
    ∃ t r, step s = .next t ∧ t.rsp = some r ∧
      (r.flt = true ↔ alwaysLegal i = false ∧ (s.fcause ≠ .noFault ∨ t.fcause ≠ .noFault)) ∧
      (r.flt = true → r.data = 0) ∧
      (r.flt = false → i = .rdst → r.data = s.status) ∧
      (r.flt = false → i = .rdn → r.data = BitVec.ofNat 32 s.rb.length) ∧
      (r.flt = false → i = .pop → ∃ v, s.rb.head? = some v ∧ r.data = v.setWidth 32) ∧
      (r.flt = false → i ≠ .rdst → i ≠ .rdn → i ≠ .pop → r.data = 0))

-- ---------------------------------------------------------------- reset, status

/-- 10_state.md R41: the value of every state element after hardware reset and after `SRST`, for every KEYMAX and RBMAX in
range. -/
def Obligations.ResetValues : Prop :=
  ∀ (s : State) (rest : List Input), s.params.InRange →
    s.port = .hardReset :: rest ∨ s.port = .command 0x10000000#32 :: rest →
    ∃ t, step s = .next t ∧
      (∀ i : Sym, t.alphaEntry i = none) ∧ t.aloaded = 0x00#8 ∧ t.alphaOk = false ∧
      t.key.length = s.params.keyMax ∧ t.keyEntry 0 = some 0x00#8 ∧ (∀ j, 1 ≤ j → t.keyEntry j = none) ∧
      t.keylen = 1 ∧ t.legacy = false ∧
      t.grp = 0 ∧ t.gcnt = 0 ∧ t.kidx = 0 ∧ t.u8 = .s0 ∧ t.rb = [] ∧ t.rkind = .chars ∧
      t.mode = .idle ∧ t.verdict = .none ∧ t.fcause = .noFault ∧ t.status = 0x00010000#32

/-- 40_config.md R100: `SRST` is legal in every mode, faulted or not; every state element takes its reset value; its effect is
that of hardware reset. `RDST` then returns 0x00010000. -/
def Obligations.SoftResetIsHardwareReset : Prop :=
  encode .srst = 0x10000000#32 ∧
  (∀ s : State, exec .srst s =
    .next { State.resetWith s.params with port := s.port, rsp := some ⟨false, 0⟩ }) ∧
  (∀ (s : State) (rest : List Input), s.port = .hardReset :: rest →
    ∃ t, step s = .next t ∧ t = { State.resetWith s.params with port := t.port, rsp := t.rsp }) ∧
  (∀ s t u : State, exec .srst s = .next t → exec .rdst t = .next u → u.rsp = some ⟨false, 0x00010000#32⟩)

/-- 10_state.md R37: the status word is assembled from the other elements by the formula of the rule, so each field stands in
its bits and the reserved bits 7 and 15:12 read 0. -/
def Obligations.StatusWordFormula : Prop :=
  ∀ s : State, s.status =
    s.mode.code.setWidth 32 ||| s.verdict.code.setWidth 32 <<< 2 ||| (BitVec.ofBool s.alphaOk).setWidth 32 <<< 4
      ||| (BitVec.ofBool s.legacy).setWidth 32 <<< 5 ||| s.rkind.code.setWidth 32 <<< 6
      ||| s.fcause.code.setWidth 32 <<< 8 ||| s.keylen.setWidth 32 <<< 16 ||| s.aloaded.setWidth 32 <<< 24

-- ---------------------------------------------------------------- configuration commands

/-- 40_config.md R101: `CLR` is legal in every mode, faulted or not; it clears the transaction and fault state and keeps the
configuration; in `IDLE` with no fault it changes nothing (in every state that meets R40). -/
def Obligations.ClrClearsTransactionAndFault : Prop :=
  encode .clr = 0x20000000#32 ∧
  (∀ s : State, exec .clr s = .next { s with
    mode := .idle, verdict := .none, fcause := .noFault, grp := 0, gcnt := 0, kidx := 0, u8 := .s0, rb := [], rkind := .chars,
    rsp := some ⟨false, 0⟩ }) ∧
  (∀ s : State, s.R40 → s.mode = .idle → s.fcause = .noFault → exec .clr s = .next { s with rsp := some ⟨false, 0⟩ })

/-- 40_config.md R102: `LDA idx, ch` loads the slot, sets its `ALOADED` bit and clears `ALPHA_OK`, in `IDLE` only; every
21-bit character is accepted. -/
def Obligations.LdaLoadsSlot : Prop :=
  ∀ (idx : Sym) (ch : Chr) (s : State), s.fcause = .noFault →
    (encode (.lda idx ch)).toNat = 0x30000000 + idx.toNat * 2 ^ 24 + ch.toNat ∧
    (s.mode = .idle → ∃ t, exec (.lda idx ch) s = .next t ∧
      t.alphaEntry idx = some ch ∧ (∀ j : Sym, j ≠ idx → t.alphaEntry j = s.alphaEntry j) ∧
      (∀ j : Sym, t.aloaded.getLsbD j.toNat = (decide (j = idx) || s.aloaded.getLsbD j.toNat)) ∧
      t = { s with alpha := t.alpha, aloaded := t.aloaded, alphaOk := false, rsp := some ⟨false, 0⟩ }) ∧
    (s.mode ≠ .idle → exec (.lda idx ch) s = .next { s with fcause := .seqError, rsp := some ⟨true, 0⟩ })

/-- 40_config.md R103: `checkCharset` is true exactly for eight characters, pairwise distinct. -/
def Obligations.CheckCharsetMeansEightDistinct : Prop :=
  ∀ chars : List Chr, checkCharset chars = true ↔
    chars.length = 8 ∧ ∀ i j : Nat, i < j → j < 8 → ∀ x y : Chr, chars[i]? = some x → chars[j]? = some y → x ≠ y

/-- 40_config.md R104: `CHKA` passes exactly when all eight slots are loaded and no two hold the same value; else it clears
`ALPHA_OK` and raises `InvalidAlphabet`, and after `CLR` no transaction opens; `IDLE` only. -/
def Obligations.ChkaChecksAlphabet : Prop :=
  encode .chka = 0x40000000#32 ∧
  ∀ s : State, s.fcause = .noFault →
    (s.mode = .idle → s.aloaded = 0xFF#8 → (∀ i j : Sym, i.toNat < j.toNat → s.alphaRead i ≠ s.alphaRead j) →
      exec .chka s = .next { s with alphaOk := true, rsp := some ⟨false, 0⟩ }) ∧
    (s.mode = .idle → (s.aloaded ≠ 0xFF#8 ∨ ∃ i j : Sym, i.toNat < j.toNat ∧ s.alphaRead i = s.alphaRead j) →
      exec .chka s = .next { s with alphaOk := false, fcause := .invalidAlphabet, rsp := some ⟨true, 0⟩ } ∧
      ∀ u, exec .clr { s with alphaOk := false, fcause := .invalidAlphabet, rsp := some ⟨true, 0⟩ } = .next u →
        exec .encb u = .next { u with fcause := .alphabetNotReady, rsp := some ⟨true, 0⟩ } ∧
        exec .decb u = .next { u with fcause := .alphabetNotReady, rsp := some ⟨true, 0⟩ }) ∧
    (s.mode ≠ .idle → exec .chka s = .next { s with fcause := .seqError, rsp := some ⟨true, 0⟩ })

/-- 40_config.md R105: `KCLR` sets `KEYLEN` to 0 and every entry loses its value, in `IDLE` only; `ENCB` and `DECB` then fault
with `KeyEmpty` (the alphabet being checked), and `KPUSH 0` gives back the neutral key of reset. -/
def Obligations.KclrEmptiesKey : Prop :=
  encode .kclr = 0x50000000#32 ∧
  ∀ s : State, s.fcause = .noFault →
    (s.mode = .idle → ∃ t, exec .kclr s = .next t ∧ t.keylen = 0 ∧ t.key.length = s.key.length ∧
      (∀ j, t.keyEntry j = none) ∧ t = { s with key := t.key, keylen := 0, rsp := some ⟨false, 0⟩ } ∧
      (s.alphaOk = true → exec .encb t = .next { t with fcause := .keyEmpty, rsp := some ⟨true, 0⟩ } ∧
        exec .decb t = .next { t with fcause := .keyEmpty, rsp := some ⟨true, 0⟩ }) ∧
      (s.params.InRange → s.key.length = s.params.keyMax →
        ∃ u, exec (.kpush 0) t = .next u ∧ u.key = (State.resetWith s.params).key ∧ u.keylen = 1)) ∧
    (s.mode ≠ .idle → exec .kclr s = .next { s with fcause := .seqError, rsp := some ⟨true, 0⟩ })

/-- 40_config.md R106: `KPUSH b` appends a key byte, in `IDLE` only; `KeyOverflow` when the array is full, with no change to
`KEY` or `KEYLEN`. -/
def Obligations.KpushAppendsKeyByte : Prop :=
  ∀ (b : Byte) (s : State), s.fcause = .noFault →
    (encode (.kpush b)).toNat = 0x60000000 + b.toNat ∧
    (s.mode = .idle → s.keylen.toNat = s.params.keyMax →
      exec (.kpush b) s = .next { s with fcause := .keyOverflow, rsp := some ⟨true, 0⟩ }) ∧
    (s.mode = .idle → s.keylen.toNat < s.params.keyMax → s.params.keyMax ≤ 255 → s.key.length = s.params.keyMax →
      ∃ t, exec (.kpush b) s = .next t ∧ t.keylen.toNat = s.keylen.toNat + 1 ∧
        t.keyEntry s.keylen.toNat = some b ∧ (∀ j, j ≠ s.keylen.toNat → t.keyEntry j = s.keyEntry j) ∧
        t = { s with key := t.key, keylen := t.keylen, rsp := some ⟨false, 0⟩ }) ∧
    (s.mode ≠ .idle → exec (.kpush b) s = .next { s with fcause := .seqError, rsp := some ⟨true, 0⟩ })

/-- 40_config.md, SETL: `SETL v` writes `LEGACY` and nothing else, in `IDLE` only. -/
def Obligations.SetlWritesLegacy : Prop :=
  ∀ (v : BitVec 1) (s : State), s.fcause = .noFault →
    (encode (.setl v)).toNat = 0x70000000 + v.toNat ∧
    (s.mode = .idle → exec (.setl v) s = .next { s with legacy := decide (v.toNat = 1), rsp := some ⟨false, 0⟩ }) ∧
    (s.mode ≠ .idle → exec (.setl v) s = .next { s with fcause := .seqError, rsp := some ⟨true, 0⟩ })

-- ---------------------------------------------------------------- encode path

/-- 41_encode.md R125: `ENCB` opens an encode transaction, in `IDLE` only, if the alphabet is checked and a key is loaded; the
alphabet is checked first. By R40 the transaction state is already clear. -/
def Obligations.EncbOpensEncode : Prop :=
  encode .encb = 0x80000000#32 ∧
  ∀ s : State, s.fcause = .noFault →
    (s.mode = .idle → s.alphaOk = true → s.keylen ≠ 0 →
      exec .encb s = .next { s with mode := .enc, rkind := .chars, rsp := some ⟨false, 0⟩ }) ∧
    (s.mode = .idle → s.alphaOk = false →
      exec .encb s = .next { s with fcause := .alphabetNotReady, rsp := some ⟨true, 0⟩ }) ∧
    (s.mode = .idle → s.alphaOk = true → s.keylen = 0 →
      exec .encb s = .next { s with fcause := .keyEmpty, rsp := some ⟨true, 0⟩ }) ∧
    (s.mode ≠ .idle → exec .encb s = .next { s with fcause := .seqError, rsp := some ⟨true, 0⟩ }) ∧
    (s.R40 → s.mode = .idle → s.kidx = 0 ∧ s.grp = 0 ∧ s.gcnt = 0 ∧ s.rb = [] ∧ s.verdict = .none)

/-- 41_encode.md R126: `ENCP b` shifts the byte by the current key byte modulo 256, puts it into the group, advances `KIDX`
by one modulo `KEYLEN`; the third byte appends eight characters of the alphabet at once, if there is room; `ResultOverflow`
writes nothing else. `GCNT <= 2` and `KEYLEN >= 1` hold in every reachable state (R40). -/
def Obligations.EncpShiftsAndPacks : Prop :=
  (∀ (b : Byte) (s : State), (encode (.encp b)).toNat = 0x90000000 + b.toNat ∧
    (s.fcause = .noFault → s.mode ≠ .enc →
      exec (.encp b) s = .next { s with fcause := .seqError, rsp := some ⟨true, 0⟩ })) ∧
  ∀ (b x : Byte) (g : Group) (k : BitVec 8) (s : State),
    s.fcause = .noFault → s.mode = .enc → s.gcnt.toNat ≤ 2 → s.keylen ≠ 0 →
    x.toNat = (b.toNat + (s.keyRead s.kidx).toNat) % 256 →
    g = s.grp ||| x.setWidth 24 <<< (16 - 8 * s.gcnt.toNat) →
    k.toNat = (s.kidx.toNat + 1) % s.keylen.toNat →
    (s.gcnt.toNat < 2 →
      exec (.encp b) s = .next { s with grp := g, gcnt := s.gcnt + 1, kidx := k, rsp := some ⟨false, 0⟩ }) ∧
    (s.gcnt.toNat = 2 → s.rb.length + 8 ≤ s.params.rbMax →
      exec (.encp b) s = .next { s with
        rb := s.rb ++ (List.range 8).map fun j => s.alphaRead (g.extractLsb' (21 - 3 * j) 3)
        grp := 0, gcnt := 0, kidx := k, rsp := some ⟨false, 0⟩ }) ∧
    (s.gcnt.toNat = 2 → s.params.rbMax < s.rb.length + 8 →
      exec (.encp b) s = .next { s with fcause := .resultOverflow, rsp := some ⟨true, 0⟩ })

/-- 41_encode.md R127: `ENCE` flushes 0, 3 or 6 symbols for 0, 1 or 2 bytes in the group and closes the transaction with
`VERDICT = OK`; `ResultOverflow` before any write; `KIDX` is left as it is. -/
def Obligations.EnceFlushesAndCloses : Prop :=
  encode .ence = 0xA0000000#32 ∧
  (∀ s : State, s.fcause = .noFault → s.mode ≠ .enc →
    exec .ence s = .next { s with fcause := .seqError, rsp := some ⟨true, 0⟩ }) ∧
  ∀ (s : State) (m : Nat), s.fcause = .noFault → s.mode = .enc →
    (s.gcnt.toNat = 0 ∧ m = 0 ∨ s.gcnt.toNat = 1 ∧ m = 3 ∨ s.gcnt.toNat = 2 ∧ m = 6) →
    (s.rb.length + m ≤ s.params.rbMax →
      exec .ence s = .next { s with
        rb := s.rb ++ (List.range m).map fun j => s.alphaRead (s.grp.extractLsb' (21 - 3 * j) 3)
        grp := 0, gcnt := 0, mode := .done, verdict := .ok, rsp := some ⟨false, 0⟩ }) ∧
    (s.params.rbMax < s.rb.length + m →
      exec .ence s = .next { s with fcause := .resultOverflow, rsp := some ⟨true, 0⟩ })

-- ---------------------------------------------------------------- decode path

/-- 42_decode.md R145: `EmitByte(x)` unshifts by the current key byte modulo 256, advances `KIDX` and `U8`, and appends the
plain byte; several in a row each see what the previous one left. -/
def Obligations.EmitByteUnshifts : Prop :=
  (∀ (s : State) (x p : Byte) (k : BitVec 8), s.keylen ≠ 0 →
    p.toNat = (x.toNat + (256 - (s.keyRead s.kidx).toNat)) % 256 →
    k.toNat = (s.kidx.toNat + 1) % s.keylen.toNat →
    s.emitByte x = { s with kidx := k, u8 := u8Next s.u8 p, rb := s.rb ++ [p.setWidth 21] }) ∧
  (∀ (g : Group) (n : Nat) (s : State), s.emitBytes g 0 = s ∧
    s.emitBytes g (n + 1) = (s.emitBytes g n).emitByte (g.extractLsb' (16 - 8 * n) 8))

/-- 42_decode.md R146: `DECB` opens a decode transaction, in `IDLE` only, alphabet first, then the key. By R40 the
transaction state is already clear. -/
def Obligations.DecbOpensDecode : Prop :=
  encode .decb = 0xB0000000#32 ∧
  ∀ s : State, s.fcause = .noFault →
    (s.mode = .idle → s.alphaOk = true → s.keylen ≠ 0 →
      exec .decb s = .next { s with mode := .dec, rkind := .bytes, rsp := some ⟨false, 0⟩ }) ∧
    (s.mode = .idle → s.alphaOk = false →
      exec .decb s = .next { s with fcause := .alphabetNotReady, rsp := some ⟨true, 0⟩ }) ∧
    (s.mode = .idle → s.alphaOk = true → s.keylen = 0 →
      exec .decb s = .next { s with fcause := .keyEmpty, rsp := some ⟨true, 0⟩ }) ∧
    (s.mode ≠ .idle → exec .decb s = .next { s with fcause := .seqError, rsp := some ⟨true, 0⟩ }) ∧
    (s.R40 → s.mode = .idle → s.u8 = .s0 ∧ s.kidx = 0 ∧ s.grp = 0 ∧ s.gcnt = 0 ∧ s.rb = [])

/-- 42_decode.md R144: `lut_match` finds the index of the entry equal to the character, or none; inside a transaction
the index is the only one; were two equal the lowest would win. -/
def Obligations.LutMatchFindsTheEntry : Prop :=
  ∀ (s : State) (ch : Chr),
    (∀ i, s.lutMatch ch = some i → s.alphaRead i = ch ∧ ∀ j : Sym, j.toNat < i.toNat → s.alphaRead j ≠ ch) ∧
    (s.lutMatch ch = none ↔ ∀ j : Sym, s.alphaRead j ≠ ch) ∧
    (s.R40 → s.mode ≠ .idle → ∀ i j : Sym, s.lutMatch ch = some i → s.alphaRead j = ch → j = i)

/-- 42_decode.md R147: `DECP ch` skips a character that is not in the alphabet; a symbol goes into the group; the eighth
symbol emits three bytes, if there is room; `ResultOverflow` writes nothing else; `DEC` only. -/
def Obligations.DecpMatchesAndUnpacks : Prop :=
  (∀ (ch : Chr) (s : State), (encode (.decp ch)).toNat = 0xC0000000 + ch.toNat ∧
    (s.fcause = .noFault → s.mode ≠ .dec →
      exec (.decp ch) s = .next { s with fcause := .seqError, rsp := some ⟨true, 0⟩ }) ∧
    (s.fcause = .noFault → s.mode = .dec → (∀ j : Sym, s.alphaRead j ≠ ch) →
      exec (.decp ch) s = .next { s with rsp := some ⟨false, 0⟩ })) ∧
  ∀ (ch : Chr) (i : Sym) (g : Group) (s : State), s.fcause = .noFault → s.mode = .dec →
    s.alphaRead i = ch → (∀ j : Sym, j.toNat < i.toNat → s.alphaRead j ≠ ch) →
    g = s.grp ||| i.setWidth 24 <<< (21 - 3 * s.gcnt.toNat) →
    (s.gcnt.toNat < 7 →
      exec (.decp ch) s = .next { s with grp := g, gcnt := s.gcnt + 1, rsp := some ⟨false, 0⟩ }) ∧
    (s.gcnt.toNat = 7 → s.rb.length + 3 ≤ s.params.rbMax →
      exec (.decp ch) s = .next
        { ((s.emitByte (g.extractLsb' 16 8)).emitByte (g.extractLsb' 8 8)).emitByte (g.extractLsb' 0 8) with
          grp := 0, gcnt := 0, rsp := some ⟨false, 0⟩ }) ∧
    (s.gcnt.toNat = 7 → s.params.rbMax < s.rb.length + 3 →
      exec (.decp ch) s = .next { s with fcause := .resultOverflow, rsp := some ⟨true, 0⟩ })

/-- 42_decode.md R148: `DECE` emits the whole bytes of the group, discards the remaining bits, closes the transaction and
gives the verdict: `OK`, `LEGACY` with the bytes kept, or `MalformedUtf8` with the result emptied. `t` is the state after the
`EmitByte` calls. -/
def Obligations.DeceGivesTheVerdict : Prop :=
  encode .dece = 0xD0000000#32 ∧
  (∀ s : State, s.fcause = .noFault → s.mode ≠ .dec →
    exec .dece s = .next { s with fcause := .seqError, rsp := some ⟨true, 0⟩ }) ∧
  ∀ (s t : State) (m : Nat), s.fcause = .noFault → s.mode = .dec → m = 3 * s.gcnt.toNat / 8 →
    t = ((List.range m).map fun j => s.grp.extractLsb' (16 - 8 * j) 8).foldl State.emitByte s →
    (s.params.rbMax < s.rb.length + m →
      exec .dece s = .next { s with fcause := .resultOverflow, rsp := some ⟨true, 0⟩ }) ∧
    (s.rb.length + m ≤ s.params.rbMax → t.u8 = .s0 →
      exec .dece s = .next { t with
        grp := 0, gcnt := 0, mode := .done, verdict := .ok, rsp := some ⟨false, 0⟩ }) ∧
    (s.rb.length + m ≤ s.params.rbMax → t.u8 ≠ .s0 → s.legacy = true →
      exec .dece s = .next { t with
        grp := 0, gcnt := 0, mode := .done, verdict := .legacy, rsp := some ⟨false, 0⟩ }) ∧
    (s.rb.length + m ≤ s.params.rbMax → t.u8 ≠ .s0 → s.legacy = false →
      exec .dece s = .next { t with
        grp := 0, gcnt := 0, mode := .done, verdict := .malformed, rb := [], fcause := .malformedUtf8,
        rsp := some ⟨true, 0⟩ })

-- ---------------------------------------------------------------- status and result commands

/-- 44_result.md R180: `RDST` returns STATUS in every mode, faulted or not, and changes no state. -/
def Obligations.RdstReturnsStatus : Prop :=
  encode .rdst = 0xE0000000#32 ∧
  (∀ s : State, exec .rdst s = .next { s with rsp := some ⟨false, s.status⟩ }) ∧
  (∀ p : Params, (State.resetWith p).status = 0x00010000#32)

/-- 44_result.md R181: `RDN` returns `RCOUNT` in every mode, faulted or not, and changes no state; the count fits; in `ENC` it
is a multiple of 8, in `DEC` a multiple of 3, after `MalformedUtf8` 0. -/
def Obligations.RdnReturnsCount : Prop :=
  encode .rdn = 0xE1000000#32 ∧
  (∀ s : State, exec .rdn s = .next { s with rsp := some ⟨false, BitVec.ofNat 32 s.rb.length⟩ }) ∧
  (∀ s : State, s.R40 → s.params.InRange → (BitVec.ofNat 32 s.rb.length).toNat = s.rb.length ∧
    (s.mode = .enc → s.rb.length % 8 = 0) ∧ (s.mode = .dec → s.rb.length % 3 = 0) ∧
    (s.fcause = .malformedUtf8 → s.rb.length = 0))

/-- 44_result.md R182: `POP` removes and returns the head of the result buffer, in `DONE` only; `ResultEmpty` when nothing is
left; refused while faulted; bits 31:21 of the data are 0, and bits 31:8 when the items are bytes. -/
def Obligations.PopTakesTheHead : Prop :=
  encode .pop = 0xF0000000#32 ∧
  ∀ s : State,
    (s.fcause = .noFault → s.mode = .done → ∀ v rest, s.rb = v :: rest →
      exec .pop s = .next { s with rb := rest, rsp := some ⟨false, v.setWidth 32⟩ } ∧
      (v.setWidth 32 : Word).toNat < 2 ^ 21 ∧ (s.Inv → s.rkind = .bytes → (v.setWidth 32 : Word).toNat < 2 ^ 8)) ∧
    (s.fcause = .noFault → s.mode = .done → s.rb = [] →
      exec .pop s = .next { s with fcause := .resultEmpty, rsp := some ⟨true, 0⟩ }) ∧
    (s.fcause = .noFault → s.mode ≠ .done →
      exec .pop s = .next { s with fcause := .seqError, rsp := some ⟨true, 0⟩ }) ∧
    (s.fcause ≠ .noFault → exec .pop s = .next { s with rsp := some ⟨true, 0⟩ })

/-- 20_memory.md section 1, RB: a strict first-in first-out queue. As many `POP`s as there are items return the items in the
order they were appended and leave the buffer empty. -/
def Obligations.PopsDrainInOrder : Prop :=
  ∀ s : State, s.fcause = .noFault → s.mode = .done →
    ∃ t, runInstrs (List.replicate s.rb.length .pop) s =
        .next (s.rb.map fun v => ⟨false, v.setWidth 32⟩, t) ∧
      t.rb = [] ∧ t = { s with rb := [], rsp := t.rsp }

-- ---------------------------------------------------------------- faults and modes

/-- 60_exceptions.md R213: `FCAUSE` is written only when it is 0. Whatever input is taken while a fault is recorded, the cause
stays, unless the input is `CLR`, `SRST` or hardware reset, which clear it. -/
def Obligations.FirstFaultWins : Prop :=
  (∀ (c : FCause) (s : State), s.fcause ≠ .noFault → (s.raise c).fcause = s.fcause) ∧
  (∀ (c : FCause) (s : State), s.fcause = .noFault → (s.raise c).fcause = c) ∧
  ∀ (s t : State) (x : Input) (rest : List Input), s.fcause ≠ .noFault → s.port = x :: rest → step s = .next t →
    (x = .hardReset ∨ x = .command (encode .clr) ∨ x = .command (encode .srst) → t.fcause = .noFault) ∧
    (x ≠ .hardReset → x ≠ .command (encode .clr) → x ≠ .command (encode .srst) → t.fcause = s.fcause)

/-- 60_exceptions.md R214: while faulted every legal command other than `SRST`, `CLR`, `RDST` and `RDN` is refused: it changes
no state at all, answers rsp(1, 0), and is lost. -/
def Obligations.FaultedRefusesCommands : Prop :=
  (∀ (i : Instr) (s : State), s.fcause ≠ .noFault → i ≠ .srst → i ≠ .clr → i ≠ .rdst → i ≠ .rdn →
    exec i s = .next { s with rsp := some ⟨true, 0⟩ }) ∧
  (∀ (i : Instr) (s : State) (rest : List Input), s.fcause ≠ .noFault → i ≠ .srst → i ≠ .clr → i ≠ .rdst → i ≠ .rdn →
    s.port = .command (encode i) :: rest → step s = .next { s with port := rest, rsp := some ⟨true, 0⟩ })

/-- 60_exceptions.md R218: a legal command in a mode in which R92 says no raises `SeqError`; no state but `FCAUSE` changes. -/
def Obligations.SeqErrorOutsideItsMode : Prop :=
  ∀ (i : Instr) (s : State), s.fcause = .noFault → legalIn i s.mode = false →
    exec i s = .next { s with fcause := .seqError, rsp := some ⟨true, 0⟩ }

/-- 30_encoding.md R92: in a mode in which it is legal a command does not raise `SeqError` and, when it succeeds, leaves the
`MODE` of the table's last column; in the others it raises `SeqError`; the only way back to `IDLE` is `CLR` or `SRST`. -/
def Obligations.ModeMachine : Prop :=
  ∀ (i : Instr) (s t : State), s.fcause = .noFault → exec i s = .next t →
    (legalIn i s.mode = true → t.fcause ≠ .seqError ∧ (t.fcause = .noFault → t.mode = nextMode i s.mode)) ∧
    (legalIn i s.mode = false → t.fcause = .seqError ∧ t.mode = s.mode) ∧
    (s.mode ≠ .idle → t.mode = .idle → i = .clr ∨ i = .srst)

/-- 60_exceptions.md section 1, the table of causes: a legal command raises only the causes the table names for it, in a mode
in which it is legal. -/
def Obligations.CommandsRaiseOnlyTheirCauses : Prop :=
  ∀ (i : Instr) (s t : State), s.fcause = .noFault → legalIn i s.mode = true → exec i s = .next t →
    t.fcause = .noFault ∨ t.fcause ∈ ownCauses i

/-- 60_exceptions.md section 4, faults are precise: a command that raises a fault of a cause other than 1 and 2 wrote nothing
else; the other two wrote exactly what the fault action lists. -/
def Obligations.FaultsArePrecise : Prop :=
  ∀ (i : Instr) (s t : State), s.fcause = .noFault → exec i s = .next t → t.fcause ≠ .noFault →
    (t.fcause ≠ .invalidAlphabet → t.fcause ≠ .malformedUtf8 →
      t = { s with fcause := t.fcause, rsp := some ⟨true, 0⟩ }) ∧
    (t.fcause = .invalidAlphabet →
      t = { s with alphaOk := false, fcause := .invalidAlphabet, rsp := some ⟨true, 0⟩ }) ∧
    (t.fcause = .malformedUtf8 →
      t.rb = [] ∧ t.verdict = .malformed ∧ t.mode = .done ∧ t.grp = 0 ∧ t.gcnt = 0 ∧
      t = { s with
        rb := [], verdict := .malformed, mode := .done, grp := 0, gcnt := 0, kidx := t.kidx, u8 := t.u8,
        fcause := .malformedUtf8, rsp := some ⟨true, 0⟩ })

-- ---------------------------------------------------------------- frames over all commands

/-- 10_state.md section 6, the access table (its writers): an element is unchanged by every command that the table does not
name as a writer of it; no command changes the parameters or the inputs still waiting (the model's own fields). -/
def Obligations.OnlyWritersWrite : Prop :=
  ∀ (i : Instr) (s t : State), exec i s = .next t → i ≠ .srst →
    t.params = s.params ∧ t.port = s.port ∧
    ((∀ idx ch, i ≠ .lda idx ch) → t.alpha = s.alpha ∧ t.aloaded = s.aloaded) ∧
    ((∀ idx ch, i ≠ .lda idx ch) → i ≠ .chka → t.alphaOk = s.alphaOk) ∧
    ((∀ b, i ≠ .kpush b) → i ≠ .kclr → t.key = s.key ∧ t.keylen = s.keylen) ∧
    ((∀ v, i ≠ .setl v) → t.legacy = s.legacy) ∧
    ((∀ b, i ≠ .encp b) → i ≠ .ence → (∀ c, i ≠ .decp c) → i ≠ .dece → i ≠ .clr → t.grp = s.grp ∧ t.gcnt = s.gcnt) ∧
    ((∀ b, i ≠ .encp b) → (∀ c, i ≠ .decp c) → i ≠ .dece → i ≠ .clr → t.kidx = s.kidx) ∧
    ((∀ c, i ≠ .decp c) → i ≠ .dece → i ≠ .clr → t.u8 = s.u8) ∧
    ((∀ b, i ≠ .encp b) → i ≠ .ence → (∀ c, i ≠ .decp c) → i ≠ .dece → i ≠ .pop → i ≠ .clr → t.rb = s.rb) ∧
    (i ≠ .encb → i ≠ .decb → i ≠ .clr → t.rkind = s.rkind) ∧
    (i ≠ .encb → i ≠ .decb → i ≠ .ence → i ≠ .dece → i ≠ .clr → t.mode = s.mode) ∧
    (i ≠ .ence → i ≠ .dece → i ≠ .clr → t.verdict = s.verdict) ∧
    (t.fcause ≠ s.fcause → i = .clr ∨ s.fcause = .noFault ∧ ∃ r, t.rsp = some r ∧ r.flt = true)

/-- 20_memory.md section 6: the configuration cannot change under an open transaction, nor in `DONE`, by any input but a
reset. -/
def Obligations.ConfigurationIsFrozenOutsideIdle : Prop :=
  ∀ (s t : State) (x : Input) (rest : List Input), s.mode ≠ .idle → s.port = x :: rest →
    x ≠ .hardReset → x ≠ .command (encode .srst) → step s = .next t →
    t.alpha = s.alpha ∧ t.aloaded = s.aloaded ∧ t.alphaOk = s.alphaOk ∧ t.key = s.key ∧ t.keylen = s.keylen ∧
    t.legacy = s.legacy

/-- 10_state.md section 6, what the host can observe: the key bytes cannot be read back. The response to a command, `DECE`'s
verdict apart, is the same whatever bytes the key array holds. -/
def Obligations.KeyBytesAreNotReadBack : Prop :=
  ∀ (i : Instr) (s t u : State) (key : List (Option Byte)), i ≠ .dece →
    exec i s = .next t → exec i { s with key := key } = .next u → t.rsp = u.rsp

-- ---------------------------------------------------------------- invariants

/-- The reset state meets the invariant, for every value of the parameters in range (10_state.md R41 against R40). -/
def Obligations.ResetMeetsTheInvariant : Prop :=
  (∀ p : Params, p.InRange → (State.resetWith p).Inv) ∧ State.reset.Inv

/-- Every step from every state that meets the invariant leads to one that does. The invariant is 10_state.md R40 with what
the rules of the single elements say of reachable states (`State.Elements`, an inference of the model). -/
def Obligations.StepKeepsTheInvariant : Prop :=
  ∀ s t : State, s.Inv → step s = .next t → t.Inv

/-- 10_state.md R40: its nine items hold in every state reachable from reset by any sequence of command words, for every value
of the parameters in range. -/
def Obligations.ReachableStatesMeetR40 : Prop :=
  ∀ (p : Params) (ws : List Word) (rs : List Response) (t : State), p.InRange →
    runWords ws (State.resetWith p) = .next (rs, t) → t.R40

/-- 10_state.md section 8, entries with no value: no command reads one, in any state that meets the invariant. Every entry that
`CHKA` and a transaction read holds a value: with all slots loaded and in every mode but `IDLE` each of the eight characters,
and always each key byte below `KEYLEN`, where `KIDX` stands and stays. And what a command does, its response included, is the
same whatever the entries without a value are filled in with; so the free values of logs 6 and 7 are never used. -/
def Obligations.NoValueIsNeverRead : Prop :=
  (∀ s : State, s.Inv →
    (s.aloaded = 0xFF#8 → ∀ i : Sym, s.alphaEntry i = some (s.alphaRead i)) ∧
    (s.mode ≠ .idle → ∀ i : Sym, s.alphaEntry i = some (s.alphaRead i)) ∧
    (∀ j : Nat, j < s.keylen.toNat → s.keyEntry j = some (s.keyRead (BitVec.ofNat 8 j))) ∧
    (s.mode = .enc ∨ s.mode = .dec → s.keylen ≠ 0 ∧ s.kidx.toNat < s.keylen.toNat ∧
      ∀ x : Byte, (s.emitByte x).kidx.toNat < s.keylen.toNat) ∧
    (s.mode = .enc → s.gcnt.toNat ≤ 2)) ∧
  (∀ (i : Instr) (s t u : State), s.Inv → s.FilledIn u → exec i s = .next t →
    ∃ v, exec i u = .next v ∧ v.rsp = t.rsp ∧ t.FilledIn v)

-- ---------------------------------------------------------------- the pure functions

/-- 41_encode.md R120 and 42_decode.md R143: `shift` and `unshift` element by element, for a key of length at least 1. -/
def Obligations.ShiftElementwise : Prop :=
  ∀ (bytes key : List Byte), 1 ≤ key.length →
    (shift bytes key).length = bytes.length ∧ (unshift bytes key).length = bytes.length ∧
    ∀ (i : Nat) (b k : Byte), bytes[i]? = some b → key[i % key.length]? = some k →
      (∃ x, (shift bytes key)[i]? = some x ∧ x.toNat = (b.toNat + k.toNat) % 256) ∧
      (∃ x, (unshift bytes key)[i]? = some x ∧ (x.toNat : Int) = ((b.toNat : Int) - k.toNat) % 256)

/-- 41_encode.md section 4 and 42_decode.md section 4: with the same key `unshift` is the exact inverse of `shift`, and the
neutral key `[0]` is the identity. -/
def Obligations.UnshiftInvertsShift : Prop :=
  (∀ (bytes key : List Byte), 1 ≤ key.length →
    unshift (shift bytes key) key = bytes ∧ shift (unshift bytes key) key = bytes) ∧
  (∀ bytes : List Byte, shift bytes [0] = bytes ∧ unshift bytes [0] = bytes)

/-- 41_encode.md R121, R122: bit `8i + k` of `joinOctets` is bit `7 - k` of byte `i`; `splitTriplets` has `ceil(L / 3)` symbols,
symbol `j` the big-endian value of bits `3j` to `3j + 2`, zero beyond the end. -/
def Obligations.PackerBitFields : Prop :=
  (∀ bytes : List Byte, (joinOctets bytes).length = 8 * bytes.length ∧
    ∀ (i k : Nat) (b : Byte), bytes[i]? = some b → k < 8 → (joinOctets bytes)[8 * i + k]? = some (b.getLsbD (7 - k))) ∧
  (∀ bits : Bits, (splitTriplets bits).length = (bits.length + 2) / 3 ∧
    ∀ (j : Nat) (x : Sym), (splitTriplets bits)[j]? = some x →
      x.toNat = 4 * (bits.getD (3 * j) false).toNat + 2 * (bits.getD (3 * j + 1) false).toNat
        + (bits.getD (3 * j + 2) false).toNat)

/-- 42_decode.md R141, R142: `joinTriplets` is the first `8 * ((3m) div 8)` bits of the symbols' bits, most significant first;
`splitOctets` has `L div 8` bytes, byte `i` the big-endian value of bits `8i` to `8i + 7`. -/
def Obligations.UnpackerBitFields : Prop :=
  (∀ symbols : List Sym, (joinTriplets symbols).length = 8 * (3 * symbols.length / 8) ∧
    ∀ (j k : Nat) (x : Sym), symbols[j]? = some x → k < 3 → 3 * j + k < 8 * (3 * symbols.length / 8) →
      (joinTriplets symbols)[3 * j + k]? = some (x.getLsbD (2 - k))) ∧
  (∀ bits : Bits, (splitOctets bits).length = bits.length / 8 ∧
    ∀ (i k : Nat) (b : Byte), (splitOctets bits)[i]? = some b → k < 8 →
      bits[8 * i + k]? = some (b.getLsbD (7 - k)))

/-- 48_host_contract.md R202: `joinTriplets(splitTriplets(s))` is `s` followed by its pad, cut to a byte-aligned length; it is
`s` itself exactly when the length of `s` is a multiple of 8. -/
def Obligations.TripletsAreIdentityOnBytes : Prop :=
  ∀ s : Bits,
    joinTriplets (splitTriplets s) =
      (s ++ List.replicate (3 * ((s.length + 2) / 3) - s.length) false).take (8 * (3 * ((s.length + 2) / 3) / 8)) ∧
    3 * ((s.length + 2) / 3) - s.length ≤ 2 ∧
    (joinTriplets (splitTriplets s)).length % 8 = 0 ∧
    (s.length % 8 = 0 → joinTriplets (splitTriplets s) = s) ∧
    (s.length % 8 ≠ 0 → joinTriplets (splitTriplets s) ≠ s)

-- ---------------------------------------------------------------- the UTF-8 machine

/-- 43_utf8.md R162: the transition table, row by row; every byte outside the range shown for a waiting state leads to `BAD`,
and `BAD` to `BAD`. -/
def Obligations.Utf8TransitionTable : Prop :=
  (∀ r ∈ ([(.s0, 0x00, 0x7F, .s0), (.s0, 0x80, 0xBF, .bad), (.s0, 0xC0, 0xC1, .bad), (.s0, 0xC2, 0xDF, .s1),
      (.s0, 0xE0, 0xE0, .se0), (.s0, 0xE1, 0xEC, .s2), (.s0, 0xED, 0xED, .sed), (.s0, 0xEE, 0xEF, .s2),
      (.s0, 0xF0, 0xF0, .sf0), (.s0, 0xF1, 0xF3, .s3), (.s0, 0xF4, 0xF4, .sf4), (.s0, 0xF5, 0xFF, .bad)] :
      List (U8 × Nat × Nat × U8)),
    ∀ p : Byte, r.2.1 ≤ p.toNat → p.toNat ≤ r.2.2.1 → u8Next r.1 p = r.2.2.2) ∧
  (∀ r ∈ ([(.s1, 0x80, 0xBF, .s0), (.s2, 0x80, 0xBF, .s1), (.s3, 0x80, 0xBF, .s2), (.se0, 0xA0, 0xBF, .s1),
      (.sed, 0x80, 0x9F, .s1), (.sf0, 0x90, 0xBF, .s2), (.sf4, 0x80, 0x8F, .s2)] : List (U8 × Nat × Nat × U8)),
    ∀ p : Byte, (r.2.1 ≤ p.toNat ∧ p.toNat ≤ r.2.2.1 → u8Next r.1 p = r.2.2.2) ∧
      (p.toNat < r.2.1 ∨ r.2.2.1 < p.toNat → u8Next r.1 p = .bad)) ∧
  (∀ p : Byte, u8Next .bad p = .bad)

/-- 43_utf8.md R168: folding the machine from `S0` ends in `S0` exactly on valid UTF-8, in `BAD` exactly on what is no prefix of
a valid sequence, and otherwise in a waiting state on a proper prefix of a valid sequence that ends inside a character. -/
def Obligations.Utf8MachineDecidesValidity : Prop :=
  ∀ P : List Byte,
    (u8Run P = .s0 ↔ utf8Valid P) ∧
    (u8Run P = .bad ↔ ¬ ∃ Q, utf8Valid (P ++ Q)) ∧
    (u8Run P ≠ .s0 → u8Run P ≠ .bad → ¬ utf8Valid P ∧ ∃ Q, Q ≠ [] ∧ utf8Valid (P ++ Q))

/-- 43_utf8.md R164: `BAD` is absorbing: one invalid byte makes the whole result invalid, whatever follows; it is left only by
`CLR`, `SRST` or hardware reset. -/
def Obligations.BadIsAbsorbing : Prop :=
  (∀ P Q : List Byte, u8Run P = .bad → u8Run (P ++ Q) = .bad ∧ ¬ utf8Valid (P ++ Q)) ∧
  (∀ (s t : State) (x : Input) (rest : List Input), s.u8 = .bad → s.port = x :: rest →
    x ≠ .hardReset → x ≠ .command (encode .clr) → x ≠ .command (encode .srst) → step s = .next t → t.u8 = .bad)

-- ---------------------------------------------------------------- the transaction laws

/-- 41_encode.md R130: a whole encode transaction without fault computes
`encodeCharset(splitTriplets(joinOctets(shift(bytes, K))), A)`. For input within capacity there is no fault (90_conflicts.md
C6). -/
def Obligations.EncodeTransactionLaw : Prop :=
  ∀ (s : State) (bs : List Byte), s.Inv → s.Ready →
    ∃ rs t, runInstrs (encodeTransaction bs) s = .next (rs, t) ∧
      ((∀ r ∈ rs, r.flt = false) →
        t.rb = encodeCharset (splitTriplets (joinOctets (shift bs s.keyBytes))) s.alphabet ∧
        t.mode = .done ∧ t.verdict = .ok ∧ t.rkind = .chars ∧ t.kidx.toNat = bs.length % s.keylen.toNat) ∧
      ((8 * bs.length + 2) / 3 ≤ s.params.rbMax → ∀ r ∈ rs, r = ⟨false, 0⟩)

/-- 42_decode.md R152: a whole decode transaction without `ResultOverflow` computes
`unshift(splitOctets(joinTriplets(decodeCharset(chars, A))), K)` and gives the verdict by `utf8_valid` and `LEGACY`. -/
def Obligations.DecodeTransactionLaw : Prop :=
  ∀ (s : State) (cs : List Chr) (P : List Byte), s.Inv → s.Ready →
    P = unshift (splitOctets (joinTriplets (decodeCharset cs s.alphabet))) s.keyBytes →
    ∃ rs t, runInstrs (decodeTransaction cs) s = .next (rs, t) ∧
      (t.fcause ≠ .resultOverflow →
        (utf8Valid P → t.rb = P.map (·.setWidth 21) ∧ t.verdict = .ok ∧ t.fcause = .noFault) ∧
        (¬ utf8Valid P → s.legacy = true → t.rb = P.map (·.setWidth 21) ∧ t.verdict = .legacy ∧ t.fcause = .noFault) ∧
        (¬ utf8Valid P → s.legacy = false → t.rb = [] ∧ t.verdict = .malformed ∧ t.fcause = .malformedUtf8) ∧
        t.mode = .done ∧ t.rkind = .bytes ∧ t.kidx.toNat = P.length % s.keylen.toNat) ∧
      (P.length ≤ s.params.rbMax → t.fcause ≠ .resultOverflow)

/-- 41_encode.md R129, 42_decode.md R151: an encode transaction of `n` bytes that closed without fault leaves
`RCOUNT = ceil(8n / 3)`, `8 * (n div 3)` and 0, 3 or 6 more, with 0, 1 or 2 pad bits; a decode transaction in which `m`
characters were found and which closed without fault leaves `RCOUNT = (3m) div 8`, `3 * (m div 8)` and 0, 0, 0, 1, 1, 1, 2, 2
more; for the output of an encode of `n` bytes that is `n`. -/
def Obligations.LengthLaws : Prop :=
  (∀ (s : State) (bs : List Byte) (rs : List Response) (t : State), s.Inv → s.Ready →
    runInstrs (encodeTransaction bs) s = .next (rs, t) → (∀ r ∈ rs, r.flt = false) →
    t.rb.length = (8 * bs.length + 2) / 3 ∧
    t.rb.length = 8 * (bs.length / 3) + [0, 3, 6].getD (bs.length % 3) 0 ∧
    3 * t.rb.length - 8 * bs.length = (3 - 8 * bs.length % 3) % 3 ∧
    (3 - 8 * bs.length % 3) % 3 = bs.length % 3) ∧
  (∀ (s : State) (cs : List Chr) (rs : List Response) (t : State) (m : Nat), s.Inv → s.Ready →
    m = (cs.filter fun c => (s.lutMatch c).isSome).length →
    runInstrs (decodeTransaction cs) s = .next (rs, t) → t.fcause = .noFault →
    t.rb.length = 3 * m / 8 ∧ t.rb.length = 3 * (m / 8) + [0, 0, 0, 1, 1, 1, 2, 2].getD (m % 8) 0) ∧
  (∀ n : Nat, 3 * ((8 * n + 2) / 3) / 8 = n)

/-- 48_host_contract.md section 5, round trip: pushing the characters of an encode of `B` into a decode with the same alphabet
and key gives `B` back, with `VERDICT = OK` exactly when `B` is valid UTF-8, and `LEGACY` or `MALFORMED` by the flag
otherwise. -/
def Obligations.RoundTrip : Prop :=
  ∀ (s : State) (B : List Byte), s.Inv → s.Ready → (8 * B.length + 2) / 3 ≤ s.params.rbMax →
    ∃ r1 t r2 u, runInstrs (encodeTransaction B) s = .next (r1, t) ∧
      runInstrs (.clr :: decodeTransaction t.rb) t = .next (r2, u) ∧
      (utf8Valid B → u.verdict = .ok ∧ u.fcause = .noFault ∧ u.rb = B.map (·.setWidth 21)) ∧
      (¬ utf8Valid B → s.legacy = true → u.verdict = .legacy ∧ u.fcause = .noFault ∧ u.rb = B.map (·.setWidth 21)) ∧
      (¬ utf8Valid B → s.legacy = false → u.verdict = .malformed ∧ u.fcause = .malformedUtf8 ∧ u.rb = [])

/-- 48_host_contract.md section 5, noise tolerance: a `DECP` of a character that is not in the alphabet, put anywhere between `DECB` and `DECE`
(the words `v` after it end the transaction, so there is at least one), changes neither the final state nor any response of
the other commands. -/
def Obligations.NoiseChangesNothing : Prop :=
  ∀ (s t u : State) (v : List Word) (ch : Chr) (r1 r2 : List Response) (w : List Word), v ≠ [] →
    runWords w s = .next (r1, t) → t.mode = .dec → (∀ j : Sym, t.alphaRead j ≠ ch) →
    runWords (w ++ v) s = .next (r1 ++ r2, u) →
    ∃ r, runWords (w ++ encode (.decp ch) :: v) s = .next (r1 ++ r :: r2, u) ∧
      (t.fcause = .noFault → r = ⟨false, 0⟩)

-- ---------------------------------------------------------------- the host contract

/-- 48_host_contract.md section 1, loading the key: `KCLR` and the `KPUSH`es leave exactly the key bytes in `KEY`, for every
key of 1 to KEYMAX bytes. -/
def Obligations.LoadKeyLeavesTheKey : Prop :=
  ∀ (s : State) (k : List Byte), s.Inv → s.mode = .idle → s.fcause = .noFault → 1 ≤ k.length → k.length ≤ s.params.keyMax →
    ∃ rs t, runInstrs (loadKey k) s = .next (rs, t) ∧ (∀ r ∈ rs, r = ⟨false, 0⟩) ∧ t.keyBytes = k ∧
      t.keylen.toNat = k.length ∧ t = { s with key := t.key, keylen := t.keylen, rsp := some ⟨false, 0⟩ }

/-- 48_host_contract.md section 2, loading the alphabet: eight distinct characters pass `CHKA` and stand in `ALPHA`; a repeated
one is `InvalidAlphabet`; a candidate of another length is not loaded. -/
def Obligations.LoadAlphabetChecks : Prop :=
  (∀ c : List Chr, c.length ≠ 8 → loadAlphabet c = none) ∧
  ∀ (s : State) (c : List Chr), s.Inv → s.mode = .idle → s.fcause = .noFault → c.length = 8 →
    ∃ is rs t, loadAlphabet c = some is ∧ runInstrs is s = .next (rs, t) ∧ t.alphabet.toList = c ∧
      (checkCharset c = true → t.alphaOk = true ∧ t.fcause = .noFault) ∧
      (checkCharset c = false → t.alphaOk = false ∧ t.fcause = .invalidAlphabet)

/-- 48_host_contract.md section 3: text to bytes gives valid UTF-8 and bytes to text inverts it; on valid UTF-8 bytes to text
cannot fail. -/
def Obligations.TextConversionsAreInverse : Prop :=
  (∀ (text : List Nat) (bs : List Byte), serialize text = some bs → utf8Valid bs ∧ deserialize bs = some text) ∧
  (∀ bs : List Byte, utf8Valid bs → ∃ text, deserialize bs = some text ∧ serialize text = some bs)

/-- 48_host_contract.md section 1, key derivation: a digest is a lowercase hex string of even length; `deriveBytes` reads each
adjacent pair as one byte, first character the high digit, and gives `[0]` for the empty digest; so every key string, the absent
one hashed as the empty one, gives at least one key byte. That the digest is made of pairs of digits is the model's form of the
hash contract (log 10). -/
def Obligations.KeyStringGivesKeyBytes : Prop :=
  (∀ text : List Nat, (hashString text).length % 2 = 0 ∧ ∀ c ∈ hashString text, c ∈ "0123456789abcdef".toList) ∧
  deriveBytes [] = some [0] ∧
  (∀ (digest : List Char) (n : Nat), digest.length = 2 * n → 0 < n → (∀ c ∈ digest, c ∈ "0123456789abcdef".toList) →
    ∃ bs, deriveBytes digest = some bs ∧ bs.length = n ∧
      ∀ (j x y : Nat) (hi lo : Char), digest[2 * j]? = some hi → digest[2 * j + 1]? = some lo →
        "0123456789abcdef".toList[x]? = some hi → "0123456789abcdef".toList[y]? = some lo →
        ∃ b, bs[j]? = some b ∧ b.toNat = 16 * x + y) ∧
  (∀ key : Option (List Nat), ∃ k, keyBytesOf key = some k ∧ 1 ≤ k.length) ∧
  keyBytesOf none = keyBytesOf (some []) ∧
  (∀ text : List Nat, keyBytesOf (some text) = deriveBytes (hashString text))
end

