-- ==== Sys2Proof/Laws/State.lean ====
section
/-! SUPPORT. One lemma per field per update of the state: what each named operation writes, and that it leaves the rest. -/

namespace Sys2Proof.Machine

namespace State

@[simp] theorem answer_params (f : Bool) (d : Word) (s : State) : (s.answer f d).params = s.params := rfl
@[simp] theorem answer_alpha (f : Bool) (d : Word) (s : State) : (s.answer f d).alpha = s.alpha := rfl
@[simp] theorem answer_aloaded (f : Bool) (d : Word) (s : State) : (s.answer f d).aloaded = s.aloaded := rfl
@[simp] theorem answer_alphaOk (f : Bool) (d : Word) (s : State) : (s.answer f d).alphaOk = s.alphaOk := rfl
@[simp] theorem answer_key (f : Bool) (d : Word) (s : State) : (s.answer f d).key = s.key := rfl
@[simp] theorem answer_keylen (f : Bool) (d : Word) (s : State) : (s.answer f d).keylen = s.keylen := rfl
@[simp] theorem answer_legacy (f : Bool) (d : Word) (s : State) : (s.answer f d).legacy = s.legacy := rfl
@[simp] theorem answer_grp (f : Bool) (d : Word) (s : State) : (s.answer f d).grp = s.grp := rfl
@[simp] theorem answer_gcnt (f : Bool) (d : Word) (s : State) : (s.answer f d).gcnt = s.gcnt := rfl
@[simp] theorem answer_kidx (f : Bool) (d : Word) (s : State) : (s.answer f d).kidx = s.kidx := rfl
@[simp] theorem answer_u8 (f : Bool) (d : Word) (s : State) : (s.answer f d).u8 = s.u8 := rfl
@[simp] theorem answer_rb (f : Bool) (d : Word) (s : State) : (s.answer f d).rb = s.rb := rfl
@[simp] theorem answer_rkind (f : Bool) (d : Word) (s : State) : (s.answer f d).rkind = s.rkind := rfl
@[simp] theorem answer_mode (f : Bool) (d : Word) (s : State) : (s.answer f d).mode = s.mode := rfl
@[simp] theorem answer_verdict (f : Bool) (d : Word) (s : State) : (s.answer f d).verdict = s.verdict := rfl
@[simp] theorem answer_fcause (f : Bool) (d : Word) (s : State) : (s.answer f d).fcause = s.fcause := rfl
@[simp] theorem answer_port (f : Bool) (d : Word) (s : State) : (s.answer f d).port = s.port := rfl
@[simp] theorem answer_rsp (f : Bool) (d : Word) (s : State) : (s.answer f d).rsp = some ⟨f, d⟩ := rfl

@[simp] theorem ok_params (s : State) : (s.ok).params = s.params := rfl
@[simp] theorem ok_alpha (s : State) : (s.ok).alpha = s.alpha := rfl
@[simp] theorem ok_aloaded (s : State) : (s.ok).aloaded = s.aloaded := rfl
@[simp] theorem ok_alphaOk (s : State) : (s.ok).alphaOk = s.alphaOk := rfl
@[simp] theorem ok_key (s : State) : (s.ok).key = s.key := rfl
@[simp] theorem ok_keylen (s : State) : (s.ok).keylen = s.keylen := rfl
@[simp] theorem ok_legacy (s : State) : (s.ok).legacy = s.legacy := rfl
@[simp] theorem ok_grp (s : State) : (s.ok).grp = s.grp := rfl
@[simp] theorem ok_gcnt (s : State) : (s.ok).gcnt = s.gcnt := rfl
@[simp] theorem ok_kidx (s : State) : (s.ok).kidx = s.kidx := rfl
@[simp] theorem ok_u8 (s : State) : (s.ok).u8 = s.u8 := rfl
@[simp] theorem ok_rb (s : State) : (s.ok).rb = s.rb := rfl
@[simp] theorem ok_rkind (s : State) : (s.ok).rkind = s.rkind := rfl
@[simp] theorem ok_mode (s : State) : (s.ok).mode = s.mode := rfl
@[simp] theorem ok_verdict (s : State) : (s.ok).verdict = s.verdict := rfl
@[simp] theorem ok_fcause (s : State) : (s.ok).fcause = s.fcause := rfl
@[simp] theorem ok_port (s : State) : (s.ok).port = s.port := rfl
@[simp] theorem ok_rsp (s : State) : (s.ok).rsp = some ⟨false, 0⟩ := rfl

@[simp] theorem raise_params (c : FCause) (s : State) : (s.raise c).params = s.params := rfl
@[simp] theorem raise_alpha (c : FCause) (s : State) : (s.raise c).alpha = s.alpha := rfl
@[simp] theorem raise_aloaded (c : FCause) (s : State) : (s.raise c).aloaded = s.aloaded := rfl
@[simp] theorem raise_alphaOk (c : FCause) (s : State) : (s.raise c).alphaOk = s.alphaOk := rfl
@[simp] theorem raise_key (c : FCause) (s : State) : (s.raise c).key = s.key := rfl
@[simp] theorem raise_keylen (c : FCause) (s : State) : (s.raise c).keylen = s.keylen := rfl
@[simp] theorem raise_legacy (c : FCause) (s : State) : (s.raise c).legacy = s.legacy := rfl
@[simp] theorem raise_grp (c : FCause) (s : State) : (s.raise c).grp = s.grp := rfl
@[simp] theorem raise_gcnt (c : FCause) (s : State) : (s.raise c).gcnt = s.gcnt := rfl
@[simp] theorem raise_kidx (c : FCause) (s : State) : (s.raise c).kidx = s.kidx := rfl
@[simp] theorem raise_u8 (c : FCause) (s : State) : (s.raise c).u8 = s.u8 := rfl
@[simp] theorem raise_rb (c : FCause) (s : State) : (s.raise c).rb = s.rb := rfl
@[simp] theorem raise_rkind (c : FCause) (s : State) : (s.raise c).rkind = s.rkind := rfl
@[simp] theorem raise_mode (c : FCause) (s : State) : (s.raise c).mode = s.mode := rfl
@[simp] theorem raise_verdict (c : FCause) (s : State) : (s.raise c).verdict = s.verdict := rfl
@[simp] theorem raise_fcause (c : FCause) (s : State) : (s.raise c).fcause = if s.fcause = .noFault then c else s.fcause := rfl
@[simp] theorem raise_port (c : FCause) (s : State) : (s.raise c).port = s.port := rfl
@[simp] theorem raise_rsp (c : FCause) (s : State) : (s.raise c).rsp = some ⟨true, 0⟩ := rfl

@[simp] theorem refuse_params (s : State) : (s.refuse).params = s.params := rfl
@[simp] theorem refuse_alpha (s : State) : (s.refuse).alpha = s.alpha := rfl
@[simp] theorem refuse_aloaded (s : State) : (s.refuse).aloaded = s.aloaded := rfl
@[simp] theorem refuse_alphaOk (s : State) : (s.refuse).alphaOk = s.alphaOk := rfl
@[simp] theorem refuse_key (s : State) : (s.refuse).key = s.key := rfl
@[simp] theorem refuse_keylen (s : State) : (s.refuse).keylen = s.keylen := rfl
@[simp] theorem refuse_legacy (s : State) : (s.refuse).legacy = s.legacy := rfl
@[simp] theorem refuse_grp (s : State) : (s.refuse).grp = s.grp := rfl
@[simp] theorem refuse_gcnt (s : State) : (s.refuse).gcnt = s.gcnt := rfl
@[simp] theorem refuse_kidx (s : State) : (s.refuse).kidx = s.kidx := rfl
@[simp] theorem refuse_u8 (s : State) : (s.refuse).u8 = s.u8 := rfl
@[simp] theorem refuse_rb (s : State) : (s.refuse).rb = s.rb := rfl
@[simp] theorem refuse_rkind (s : State) : (s.refuse).rkind = s.rkind := rfl
@[simp] theorem refuse_mode (s : State) : (s.refuse).mode = s.mode := rfl
@[simp] theorem refuse_verdict (s : State) : (s.refuse).verdict = s.verdict := rfl
@[simp] theorem refuse_fcause (s : State) : (s.refuse).fcause = s.fcause := rfl
@[simp] theorem refuse_port (s : State) : (s.refuse).port = s.port := rfl
@[simp] theorem refuse_rsp (s : State) : (s.refuse).rsp = some ⟨true, 0⟩ := rfl

@[simp] theorem clearTransaction_params (s : State) : (s.clearTransaction).params = s.params := rfl
@[simp] theorem clearTransaction_alpha (s : State) : (s.clearTransaction).alpha = s.alpha := rfl
@[simp] theorem clearTransaction_aloaded (s : State) : (s.clearTransaction).aloaded = s.aloaded := rfl
@[simp] theorem clearTransaction_alphaOk (s : State) : (s.clearTransaction).alphaOk = s.alphaOk := rfl
@[simp] theorem clearTransaction_key (s : State) : (s.clearTransaction).key = s.key := rfl
@[simp] theorem clearTransaction_keylen (s : State) : (s.clearTransaction).keylen = s.keylen := rfl
@[simp] theorem clearTransaction_legacy (s : State) : (s.clearTransaction).legacy = s.legacy := rfl
@[simp] theorem clearTransaction_grp (s : State) : (s.clearTransaction).grp = 0 := rfl
@[simp] theorem clearTransaction_gcnt (s : State) : (s.clearTransaction).gcnt = 0 := rfl
@[simp] theorem clearTransaction_kidx (s : State) : (s.clearTransaction).kidx = 0 := rfl
@[simp] theorem clearTransaction_u8 (s : State) : (s.clearTransaction).u8 = .s0 := rfl
@[simp] theorem clearTransaction_rb (s : State) : (s.clearTransaction).rb = [] := rfl
@[simp] theorem clearTransaction_rkind (s : State) : (s.clearTransaction).rkind = .chars := rfl
@[simp] theorem clearTransaction_mode (s : State) : (s.clearTransaction).mode = .idle := rfl
@[simp] theorem clearTransaction_verdict (s : State) : (s.clearTransaction).verdict = .none := rfl
@[simp] theorem clearTransaction_fcause (s : State) : (s.clearTransaction).fcause = .noFault := rfl
@[simp] theorem clearTransaction_port (s : State) : (s.clearTransaction).port = s.port := rfl
@[simp] theorem clearTransaction_rsp (s : State) : (s.clearTransaction).rsp = s.rsp := rfl

@[simp] theorem restart_params (s : State) : (s.restart).params = s.params := rfl
@[simp] theorem restart_alpha (s : State) : (s.restart).alpha = Vector.replicate 8 none := rfl
@[simp] theorem restart_aloaded (s : State) : (s.restart).aloaded = 0 := rfl
@[simp] theorem restart_alphaOk (s : State) : (s.restart).alphaOk = false := rfl
@[simp] theorem restart_key (s : State) : (s.restart).key = some 0 :: List.replicate (s.params.keyMax - 1) none := rfl
@[simp] theorem restart_keylen (s : State) : (s.restart).keylen = 1 := rfl
@[simp] theorem restart_legacy (s : State) : (s.restart).legacy = false := rfl
@[simp] theorem restart_grp (s : State) : (s.restart).grp = 0 := rfl
@[simp] theorem restart_gcnt (s : State) : (s.restart).gcnt = 0 := rfl
@[simp] theorem restart_kidx (s : State) : (s.restart).kidx = 0 := rfl
@[simp] theorem restart_u8 (s : State) : (s.restart).u8 = .s0 := rfl
@[simp] theorem restart_rb (s : State) : (s.restart).rb = [] := rfl
@[simp] theorem restart_rkind (s : State) : (s.restart).rkind = .chars := rfl
@[simp] theorem restart_mode (s : State) : (s.restart).mode = .idle := rfl
@[simp] theorem restart_verdict (s : State) : (s.restart).verdict = .none := rfl
@[simp] theorem restart_fcause (s : State) : (s.restart).fcause = .noFault := rfl
@[simp] theorem restart_port (s : State) : (s.restart).port = s.port := rfl
@[simp] theorem restart_rsp (s : State) : (s.restart).rsp = none := rfl

@[simp] theorem pushSymbols_params (g : Group) (n : Nat) (s : State) : (s.pushSymbols g n).params = s.params := rfl
@[simp] theorem pushSymbols_alpha (g : Group) (n : Nat) (s : State) : (s.pushSymbols g n).alpha = s.alpha := rfl
@[simp] theorem pushSymbols_aloaded (g : Group) (n : Nat) (s : State) : (s.pushSymbols g n).aloaded = s.aloaded := rfl
@[simp] theorem pushSymbols_alphaOk (g : Group) (n : Nat) (s : State) : (s.pushSymbols g n).alphaOk = s.alphaOk := rfl
@[simp] theorem pushSymbols_key (g : Group) (n : Nat) (s : State) : (s.pushSymbols g n).key = s.key := rfl
@[simp] theorem pushSymbols_keylen (g : Group) (n : Nat) (s : State) : (s.pushSymbols g n).keylen = s.keylen := rfl
@[simp] theorem pushSymbols_legacy (g : Group) (n : Nat) (s : State) : (s.pushSymbols g n).legacy = s.legacy := rfl
@[simp] theorem pushSymbols_grp (g : Group) (n : Nat) (s : State) : (s.pushSymbols g n).grp = s.grp := rfl
@[simp] theorem pushSymbols_gcnt (g : Group) (n : Nat) (s : State) : (s.pushSymbols g n).gcnt = s.gcnt := rfl
@[simp] theorem pushSymbols_kidx (g : Group) (n : Nat) (s : State) : (s.pushSymbols g n).kidx = s.kidx := rfl
@[simp] theorem pushSymbols_u8 (g : Group) (n : Nat) (s : State) : (s.pushSymbols g n).u8 = s.u8 := rfl
@[simp] theorem pushSymbols_rb (g : Group) (n : Nat) (s : State) : (s.pushSymbols g n).rb = s.rb ++ (List.range n).map fun j => s.alphaRead (sym g j) := rfl
@[simp] theorem pushSymbols_rkind (g : Group) (n : Nat) (s : State) : (s.pushSymbols g n).rkind = s.rkind := rfl
@[simp] theorem pushSymbols_mode (g : Group) (n : Nat) (s : State) : (s.pushSymbols g n).mode = s.mode := rfl
@[simp] theorem pushSymbols_verdict (g : Group) (n : Nat) (s : State) : (s.pushSymbols g n).verdict = s.verdict := rfl
@[simp] theorem pushSymbols_fcause (g : Group) (n : Nat) (s : State) : (s.pushSymbols g n).fcause = s.fcause := rfl
@[simp] theorem pushSymbols_port (g : Group) (n : Nat) (s : State) : (s.pushSymbols g n).port = s.port := rfl
@[simp] theorem pushSymbols_rsp (g : Group) (n : Nat) (s : State) : (s.pushSymbols g n).rsp = s.rsp := rfl

@[simp] theorem setGroup_params (g : Group) (n : BitVec 3) (s : State) : (s.setGroup g n).params = s.params := rfl
@[simp] theorem setGroup_alpha (g : Group) (n : BitVec 3) (s : State) : (s.setGroup g n).alpha = s.alpha := rfl
@[simp] theorem setGroup_aloaded (g : Group) (n : BitVec 3) (s : State) : (s.setGroup g n).aloaded = s.aloaded := rfl
@[simp] theorem setGroup_alphaOk (g : Group) (n : BitVec 3) (s : State) : (s.setGroup g n).alphaOk = s.alphaOk := rfl
@[simp] theorem setGroup_key (g : Group) (n : BitVec 3) (s : State) : (s.setGroup g n).key = s.key := rfl
@[simp] theorem setGroup_keylen (g : Group) (n : BitVec 3) (s : State) : (s.setGroup g n).keylen = s.keylen := rfl
@[simp] theorem setGroup_legacy (g : Group) (n : BitVec 3) (s : State) : (s.setGroup g n).legacy = s.legacy := rfl
@[simp] theorem setGroup_grp (g : Group) (n : BitVec 3) (s : State) : (s.setGroup g n).grp = g := rfl
@[simp] theorem setGroup_gcnt (g : Group) (n : BitVec 3) (s : State) : (s.setGroup g n).gcnt = n := rfl
@[simp] theorem setGroup_kidx (g : Group) (n : BitVec 3) (s : State) : (s.setGroup g n).kidx = s.kidx := rfl
@[simp] theorem setGroup_u8 (g : Group) (n : BitVec 3) (s : State) : (s.setGroup g n).u8 = s.u8 := rfl
@[simp] theorem setGroup_rb (g : Group) (n : BitVec 3) (s : State) : (s.setGroup g n).rb = s.rb := rfl
@[simp] theorem setGroup_rkind (g : Group) (n : BitVec 3) (s : State) : (s.setGroup g n).rkind = s.rkind := rfl
@[simp] theorem setGroup_mode (g : Group) (n : BitVec 3) (s : State) : (s.setGroup g n).mode = s.mode := rfl
@[simp] theorem setGroup_verdict (g : Group) (n : BitVec 3) (s : State) : (s.setGroup g n).verdict = s.verdict := rfl
@[simp] theorem setGroup_fcause (g : Group) (n : BitVec 3) (s : State) : (s.setGroup g n).fcause = s.fcause := rfl
@[simp] theorem setGroup_port (g : Group) (n : BitVec 3) (s : State) : (s.setGroup g n).port = s.port := rfl
@[simp] theorem setGroup_rsp (g : Group) (n : BitVec 3) (s : State) : (s.setGroup g n).rsp = s.rsp := rfl

@[simp] theorem advanceKey_params (s : State) : (s.advanceKey).params = s.params := rfl
@[simp] theorem advanceKey_alpha (s : State) : (s.advanceKey).alpha = s.alpha := rfl
@[simp] theorem advanceKey_aloaded (s : State) : (s.advanceKey).aloaded = s.aloaded := rfl
@[simp] theorem advanceKey_alphaOk (s : State) : (s.advanceKey).alphaOk = s.alphaOk := rfl
@[simp] theorem advanceKey_key (s : State) : (s.advanceKey).key = s.key := rfl
@[simp] theorem advanceKey_keylen (s : State) : (s.advanceKey).keylen = s.keylen := rfl
@[simp] theorem advanceKey_legacy (s : State) : (s.advanceKey).legacy = s.legacy := rfl
@[simp] theorem advanceKey_grp (s : State) : (s.advanceKey).grp = s.grp := rfl
@[simp] theorem advanceKey_gcnt (s : State) : (s.advanceKey).gcnt = s.gcnt := rfl
@[simp] theorem advanceKey_kidx (s : State) : (s.advanceKey).kidx = nextKidx s.kidx s.keylen := rfl
@[simp] theorem advanceKey_u8 (s : State) : (s.advanceKey).u8 = s.u8 := rfl
@[simp] theorem advanceKey_rb (s : State) : (s.advanceKey).rb = s.rb := rfl
@[simp] theorem advanceKey_rkind (s : State) : (s.advanceKey).rkind = s.rkind := rfl
@[simp] theorem advanceKey_mode (s : State) : (s.advanceKey).mode = s.mode := rfl
@[simp] theorem advanceKey_verdict (s : State) : (s.advanceKey).verdict = s.verdict := rfl
@[simp] theorem advanceKey_fcause (s : State) : (s.advanceKey).fcause = s.fcause := rfl
@[simp] theorem advanceKey_port (s : State) : (s.advanceKey).port = s.port := rfl
@[simp] theorem advanceKey_rsp (s : State) : (s.advanceKey).rsp = s.rsp := rfl

@[simp] theorem emitByte_params (s : State) (x : Byte) : (s.emitByte x).params = s.params := rfl
@[simp] theorem emitByte_alpha (s : State) (x : Byte) : (s.emitByte x).alpha = s.alpha := rfl
@[simp] theorem emitByte_aloaded (s : State) (x : Byte) : (s.emitByte x).aloaded = s.aloaded := rfl
@[simp] theorem emitByte_alphaOk (s : State) (x : Byte) : (s.emitByte x).alphaOk = s.alphaOk := rfl
@[simp] theorem emitByte_key (s : State) (x : Byte) : (s.emitByte x).key = s.key := rfl
@[simp] theorem emitByte_keylen (s : State) (x : Byte) : (s.emitByte x).keylen = s.keylen := rfl
@[simp] theorem emitByte_legacy (s : State) (x : Byte) : (s.emitByte x).legacy = s.legacy := rfl
@[simp] theorem emitByte_grp (s : State) (x : Byte) : (s.emitByte x).grp = s.grp := rfl
@[simp] theorem emitByte_gcnt (s : State) (x : Byte) : (s.emitByte x).gcnt = s.gcnt := rfl
@[simp] theorem emitByte_kidx (s : State) (x : Byte) : (s.emitByte x).kidx = nextKidx s.kidx s.keylen := rfl
@[simp] theorem emitByte_u8 (s : State) (x : Byte) : (s.emitByte x).u8 = u8Next s.u8 (unshiftByte x (s.keyRead s.kidx)) := rfl
@[simp] theorem emitByte_rb (s : State) (x : Byte) : (s.emitByte x).rb = s.rb ++ [zext21 (unshiftByte x (s.keyRead s.kidx))] := rfl
@[simp] theorem emitByte_rkind (s : State) (x : Byte) : (s.emitByte x).rkind = s.rkind := rfl
@[simp] theorem emitByte_mode (s : State) (x : Byte) : (s.emitByte x).mode = s.mode := rfl
@[simp] theorem emitByte_verdict (s : State) (x : Byte) : (s.emitByte x).verdict = s.verdict := rfl
@[simp] theorem emitByte_fcause (s : State) (x : Byte) : (s.emitByte x).fcause = s.fcause := rfl
@[simp] theorem emitByte_port (s : State) (x : Byte) : (s.emitByte x).port = s.port := rfl
@[simp] theorem emitByte_rsp (s : State) (x : Byte) : (s.emitByte x).rsp = s.rsp := rfl

@[simp] theorem offer_params (w : Word) (s : State) : (s.offer w).params = s.params := rfl
@[simp] theorem offer_alpha (w : Word) (s : State) : (s.offer w).alpha = s.alpha := rfl
@[simp] theorem offer_aloaded (w : Word) (s : State) : (s.offer w).aloaded = s.aloaded := rfl
@[simp] theorem offer_alphaOk (w : Word) (s : State) : (s.offer w).alphaOk = s.alphaOk := rfl
@[simp] theorem offer_key (w : Word) (s : State) : (s.offer w).key = s.key := rfl
@[simp] theorem offer_keylen (w : Word) (s : State) : (s.offer w).keylen = s.keylen := rfl
@[simp] theorem offer_legacy (w : Word) (s : State) : (s.offer w).legacy = s.legacy := rfl
@[simp] theorem offer_grp (w : Word) (s : State) : (s.offer w).grp = s.grp := rfl
@[simp] theorem offer_gcnt (w : Word) (s : State) : (s.offer w).gcnt = s.gcnt := rfl
@[simp] theorem offer_kidx (w : Word) (s : State) : (s.offer w).kidx = s.kidx := rfl
@[simp] theorem offer_u8 (w : Word) (s : State) : (s.offer w).u8 = s.u8 := rfl
@[simp] theorem offer_rb (w : Word) (s : State) : (s.offer w).rb = s.rb := rfl
@[simp] theorem offer_rkind (w : Word) (s : State) : (s.offer w).rkind = s.rkind := rfl
@[simp] theorem offer_mode (w : Word) (s : State) : (s.offer w).mode = s.mode := rfl
@[simp] theorem offer_verdict (w : Word) (s : State) : (s.offer w).verdict = s.verdict := rfl
@[simp] theorem offer_fcause (w : Word) (s : State) : (s.offer w).fcause = s.fcause := rfl
@[simp] theorem offer_port (w : Word) (s : State) : (s.offer w).port = .command w :: s.port := rfl
@[simp] theorem offer_rsp (w : Word) (s : State) : (s.offer w).rsp = s.rsp := rfl

@[simp] theorem answer_alphaRead (f : Bool) (d : Word) (s : State) (i : Sym) : (s.answer f d).alphaRead i = s.alphaRead i := rfl
@[simp] theorem answer_keyRead (f : Bool) (d : Word) (s : State) (j : BitVec 8) : (s.answer f d).keyRead j = s.keyRead j := rfl
@[simp] theorem answer_lutMatch (f : Bool) (d : Word) (s : State) (ch : Chr) : (s.answer f d).lutMatch ch = s.lutMatch ch := rfl
@[simp] theorem ok_alphaRead (s : State) (i : Sym) : (s.ok).alphaRead i = s.alphaRead i := rfl
@[simp] theorem ok_keyRead (s : State) (j : BitVec 8) : (s.ok).keyRead j = s.keyRead j := rfl
@[simp] theorem ok_lutMatch (s : State) (ch : Chr) : (s.ok).lutMatch ch = s.lutMatch ch := rfl
@[simp] theorem raise_alphaRead (c : FCause) (s : State) (i : Sym) : (s.raise c).alphaRead i = s.alphaRead i := rfl
@[simp] theorem raise_keyRead (c : FCause) (s : State) (j : BitVec 8) : (s.raise c).keyRead j = s.keyRead j := rfl
@[simp] theorem raise_lutMatch (c : FCause) (s : State) (ch : Chr) : (s.raise c).lutMatch ch = s.lutMatch ch := rfl
@[simp] theorem refuse_alphaRead (s : State) (i : Sym) : (s.refuse).alphaRead i = s.alphaRead i := rfl
@[simp] theorem refuse_keyRead (s : State) (j : BitVec 8) : (s.refuse).keyRead j = s.keyRead j := rfl
@[simp] theorem refuse_lutMatch (s : State) (ch : Chr) : (s.refuse).lutMatch ch = s.lutMatch ch := rfl
@[simp] theorem clearTransaction_alphaRead (s : State) (i : Sym) : (s.clearTransaction).alphaRead i = s.alphaRead i := rfl
@[simp] theorem clearTransaction_keyRead (s : State) (j : BitVec 8) : (s.clearTransaction).keyRead j = s.keyRead j := rfl
@[simp] theorem clearTransaction_lutMatch (s : State) (ch : Chr) : (s.clearTransaction).lutMatch ch = s.lutMatch ch := rfl
@[simp] theorem pushSymbols_alphaRead (g : Group) (n : Nat) (s : State) (i : Sym) : (s.pushSymbols g n).alphaRead i = s.alphaRead i := rfl
@[simp] theorem pushSymbols_keyRead (g : Group) (n : Nat) (s : State) (j : BitVec 8) : (s.pushSymbols g n).keyRead j = s.keyRead j := rfl
@[simp] theorem pushSymbols_lutMatch (g : Group) (n : Nat) (s : State) (ch : Chr) : (s.pushSymbols g n).lutMatch ch = s.lutMatch ch := rfl
@[simp] theorem setGroup_alphaRead (g : Group) (n : BitVec 3) (s : State) (i : Sym) : (s.setGroup g n).alphaRead i = s.alphaRead i := rfl
@[simp] theorem setGroup_keyRead (g : Group) (n : BitVec 3) (s : State) (j : BitVec 8) : (s.setGroup g n).keyRead j = s.keyRead j := rfl
@[simp] theorem setGroup_lutMatch (g : Group) (n : BitVec 3) (s : State) (ch : Chr) : (s.setGroup g n).lutMatch ch = s.lutMatch ch := rfl
@[simp] theorem advanceKey_alphaRead (s : State) (i : Sym) : (s.advanceKey).alphaRead i = s.alphaRead i := rfl
@[simp] theorem advanceKey_keyRead (s : State) (j : BitVec 8) : (s.advanceKey).keyRead j = s.keyRead j := rfl
@[simp] theorem advanceKey_lutMatch (s : State) (ch : Chr) : (s.advanceKey).lutMatch ch = s.lutMatch ch := rfl
@[simp] theorem emitByte_alphaRead (s : State) (x : Byte) (i : Sym) : (s.emitByte x).alphaRead i = s.alphaRead i := rfl
@[simp] theorem emitByte_keyRead (s : State) (x : Byte) (j : BitVec 8) : (s.emitByte x).keyRead j = s.keyRead j := rfl
@[simp] theorem emitByte_lutMatch (s : State) (x : Byte) (ch : Chr) : (s.emitByte x).lutMatch ch = s.lutMatch ch := rfl
@[simp] theorem offer_alphaRead (w : Word) (s : State) (i : Sym) : (s.offer w).alphaRead i = s.alphaRead i := rfl
@[simp] theorem offer_keyRead (w : Word) (s : State) (j : BitVec 8) : (s.offer w).keyRead j = s.keyRead j := rfl
@[simp] theorem offer_lutMatch (w : Word) (s : State) (ch : Chr) : (s.offer w).lutMatch ch = s.lutMatch ch := rfl

end State

end Sys2Proof.Machine
end

