-- ==== Sys2Proof/Laws/Ops.lean ====
section
/-! SUPPORT. For each shared operation, what it can do, said once: taking a fault, the checks before a command, the reads of
ALPHA and KEY, the byte emission, one step, a run. -/

namespace Sys2Proof.Machine

namespace State

/-- Taking a fault on an unfaulted state records the cause (R212). -/
theorem raise_of_noFault {s : State} (c : FCause) (h : s.fcause = .noFault) :
    s.raise c = { s with fcause := c, rsp := some ⟨true, 0⟩ } := by
  simp [raise, h]

/-- Taking a fault on a faulted state keeps the cause (R213). -/
theorem raise_of_faulted {s : State} (c : FCause) (h : s.fcause ≠ .noFault) :
    s.raise c = { s with rsp := some ⟨true, 0⟩ } := by
  simp [raise, h]

/-- There is room, or there is not: as an inequality. -/
theorem hasRoom_eq_true {s : State} {n : Nat} : s.hasRoom n = true ↔ s.rb.length + n ≤ s.params.rbMax := by
  simp [hasRoom]

theorem hasRoom_eq_false {s : State} {n : Nat} : s.hasRoom n = false ↔ s.params.rbMax < s.rb.length + n := by
  simp [hasRoom]

/-- The alphabet at an index is the read of that entry. -/
theorem alphabet_getElem (s : State) (i : Sym) : s.alphabet[i.toNat]'i.isLt = s.alphaRead i := by
  have h : ∀ k : Sym, k = 0 ∨ k = 1 ∨ k = 2 ∨ k = 3 ∨ k = 4 ∨ k = 5 ∨ k = 6 ∨ k = 7 := by decide
  rcases h i with h | h | h | h | h | h | h | h <;> subst h <;> rfl

/-- The hardware match is the pure function's match against the alphabet (R140, R144). -/
theorem lutMatch_eq_indexIn (s : State) (ch : Chr) : s.lutMatch ch = indexIn s.alphabet ch := by
  unfold lutMatch indexIn
  congr 1
  funext x
  rw [alphabet_getElem]

/-- A match names an entry equal to the character. -/
theorem alphaRead_of_lutMatch {s : State} {ch : Chr} {i : Sym} (h : s.lutMatch ch = some i) : s.alphaRead i = ch := by
  have := List.find?_some h
  simpa using this

/-- No match means that every entry differs. -/
theorem lutMatch_eq_none {s : State} {ch : Chr} : s.lutMatch ch = none ↔ ∀ i : Sym, s.alphaRead i ≠ ch := by
  have hall : ∀ k : Sym, k ∈ [0#3, 1#3, 2#3, 3#3, 4#3, 5#3, 6#3, 7#3] := by decide
  constructor
  · intro h i
    have := List.find?_eq_none.1 h i (hall i)
    simpa using this
  · intro h
    apply List.find?_eq_none.2
    intro i _
    simpa using h i

/-- Several `EmitByte` in a row: one more after the others. -/
theorem emitBytes_zero (g : Group) (s : State) : s.emitBytes g 0 = s := rfl

theorem emitBytes_succ (g : Group) (n : Nat) (s : State) :
    s.emitBytes g (n + 1) = (s.emitBytes g n).emitByte (groupByte g n) := by
  simp [emitBytes, List.range_succ]

/-- What several `EmitByte` leave unchanged, and how many items they append. -/
theorem emitBytes_frame (g : Group) (n : Nat) (s : State) :
    (s.emitBytes g n).params = s.params ∧ (s.emitBytes g n).alpha = s.alpha ∧ (s.emitBytes g n).aloaded = s.aloaded ∧
    (s.emitBytes g n).alphaOk = s.alphaOk ∧ (s.emitBytes g n).key = s.key ∧ (s.emitBytes g n).keylen = s.keylen ∧
    (s.emitBytes g n).legacy = s.legacy ∧ (s.emitBytes g n).grp = s.grp ∧ (s.emitBytes g n).gcnt = s.gcnt ∧
    (s.emitBytes g n).rkind = s.rkind ∧ (s.emitBytes g n).mode = s.mode ∧ (s.emitBytes g n).verdict = s.verdict ∧
    (s.emitBytes g n).fcause = s.fcause ∧ (s.emitBytes g n).port = s.port ∧ (s.emitBytes g n).rsp = s.rsp ∧
    (s.emitBytes g n).rb.length = s.rb.length + n := by
  induction n with
  | zero => simp [emitBytes_zero]
  | succ n ih => simp [emitBytes_succ, ih]; omega

end State

/-- The checks before a command's own say one of three things (R224 steps 3 and 4). -/
theorem inMode_cases (m : Mode) (body : State → State) (s : State) :
    (s.fcause ≠ .noFault ∧ inMode m body s = s.refuse) ∨
    (s.fcause = .noFault ∧ s.mode ≠ m ∧ inMode m body s = s.raise .seqError) ∨
    (s.fcause = .noFault ∧ s.mode = m ∧ inMode m body s = body s) := by
  unfold inMode
  split
  · exact .inl ⟨‹_›, rfl⟩
  · split
    · exact .inr (.inl ⟨by simpa using ‹¬ s.fcause ≠ _›, ‹_›, rfl⟩)
    · exact .inr (.inr ⟨by simpa using ‹¬ s.fcause ≠ _›, by simpa using ‹¬ s.mode ≠ _›, rfl⟩)

theorem inMode_of_faulted {m : Mode} {body : State → State} {s : State} (h : s.fcause ≠ .noFault) :
    inMode m body s = s.refuse := by
  simp [inMode, h]

theorem inMode_of_ne {m : Mode} {body : State → State} {s : State} (h : s.fcause = .noFault) (hm : s.mode ≠ m) :
    inMode m body s = s.raise .seqError := by
  simp [inMode, h, hm]

theorem inMode_of_legal {m : Mode} {body : State → State} {s : State} (h : s.fcause = .noFault) (hm : s.mode = m) :
    inMode m body s = body s := by
  simp [inMode, h, hm]

/-- A step on an offered word takes that word. -/
theorem step_offer (s : State) (w : Word) : step (s.offer w) = takeCommand w s := rfl

/-- A step on a waiting word takes that word. -/
theorem step_of_port_command {s : State} {w : Word} {rest : List Input} (h : s.port = .command w :: rest) :
    step s = takeCommand w { s with port := rest } := by
  simp [step, takeNext, takeInput, h]

/-- A legal word is executed, an illegal one raises `IllegalCommand` (R224 step 1). -/
theorem takeCommand_of_ok {w : Word} {i : Instr} (s : State) (h : decode w = .ok i) : takeCommand w s = exec i s := by
  simp [takeCommand, h]

theorem takeCommand_of_error {w : Word} {e : Illegal} (s : State) (h : decode w = .error e) :
    takeCommand w s = .next (s.raise .illegalCommand) := by
  simp [takeCommand, h]

/-- A run is its first step and the run of the rest. -/
theorem runWords_cons_of_next {w : Word} {ws : List Word} {s t : State} (h : takeCommand w s = .next t) :
    runWords (w :: ws) s = afterFirst t (runWords ws t) := by
  simp only [runWords, step_offer, h]

theorem runWords_nil (s : State) : runWords [] s = .next ([], s) := rfl

end Sys2Proof.Machine
end

