-- ==== Sys2Proof/Laws/Exec.lean ====
section
/-! SUPPORT. What executing a command can do, said once: four commands run in every state, each of the other twelve is its
pseudocode behind the checks of spec/60_exceptions.md R224. -/

namespace Sys2Proof.Machine

/-- The one mode a gated command is legal in (30_encoding.md R92); none for the four that are always legal. -/
def gate : Instr → Option Mode
  | .srst | .clr | .rdst | .rdn => none
  | .lda _ _ | .chka | .kclr | .kpush _ | .setl _ | .encb | .decb => some .idle
  | .encp _ | .ence => some .enc
  | .decp _ | .dece => some .dec
  | .pop => some .done

/-- The pseudocode of a command. -/
def body : Instr → State → State
  | .srst, s => s.restart.ok
  | .clr, s => s.clearTransaction.ok
  | .lda idx ch, s => ldaBody idx ch s
  | .chka, s => chkaBody s
  | .kclr, s => kclrBody s
  | .kpush b, s => kpushBody b s
  | .setl v, s => setlBody v s
  | .encb, s => beginTransaction .enc .chars s
  | .encp b, s => encpBody b s
  | .ence, s => enceBody s
  | .decb, s => beginTransaction .dec .bytes s
  | .decp ch, s => decpBody ch s
  | .dece, s => deceBody s
  | .rdst, s => s.answer false s.status
  | .rdn, s => s.answer false s.rcount
  | .pop, s => popBody s

/-- A command without a gate runs its pseudocode in every state. -/
theorem exec_of_gate_none {i : Instr} (h : gate i = none) (s : State) : exec i s = .next (body i s) := by
  cases i <;> first | rfl | exact absurd h (by simp [gate])

/-- A command with a gate runs its pseudocode behind the checks. -/
theorem exec_of_gate_some {i : Instr} {m : Mode} (h : gate i = some m) (s : State) :
    exec i s = .next (inMode m (body i) s) := by
  cases i <;> simp only [gate, reduceCtorEq, Option.some.injEq] at h <;> subst h <;> rfl

/-- Executing a command: refused, out of its mode, or its pseudocode. -/
theorem exec_cases {i : Instr} {s t : State} (h : exec i s = .next t) :
    (gate i = none ∧ t = body i s) ∨
    (∃ m, gate i = some m ∧ s.fcause ≠ .noFault ∧ t = s.refuse) ∨
    (∃ m, gate i = some m ∧ s.fcause = .noFault ∧ s.mode ≠ m ∧ t = s.raise .seqError) ∨
    (∃ m, gate i = some m ∧ s.fcause = .noFault ∧ s.mode = m ∧ t = body i s) := by
  cases hg : gate i with
  | none => rw [exec_of_gate_none hg] at h; cases h; exact .inl ⟨rfl, rfl⟩
  | some m =>
    rw [exec_of_gate_some hg] at h
    cases h
    rcases inMode_cases m (body i) s with ⟨hf, e⟩ | ⟨hf, hm, e⟩ | ⟨hf, hm, e⟩
    · exact .inr (.inl ⟨m, rfl, hf, e⟩)
    · exact .inr (.inr (.inl ⟨m, rfl, hf, hm, e⟩))
    · exact .inr (.inr (.inr ⟨m, rfl, hf, hm, e⟩))

/-- The always-legal commands are those without a gate (R224 step 2). -/
theorem gate_eq_none_iff (i : Instr) :
    gate i = none ↔ i = .srst ∨ i = .clr ∨ i = .rdst ∨ i = .rdn := by
  cases i <;> simp [gate]

end Sys2Proof.Machine
end

