-- ==== Sys2Proof/Laws/HostContract.lean ====
section
/-! SUPPORT. The hash contract of spec/48_host_contract.md R190: what a digest string is made of, and what `hexPairs` reads
from it. -/

namespace Sys2Proof.Machine

/-- A hex digit is read back as its value. -/
@[simp] theorem hexVal_hexChar (d : Fin 16) : hexVal (hexChar d) = some d.val := by
  revert d; decide

@[simp] theorem digestString_nil : digestString [] = [] := rfl

@[simp] theorem digestString_cons (p : HexPair) (ps : List HexPair) :
    digestString (p :: ps) = hexChar p.high :: hexChar p.low :: digestString ps := rfl

/-- A digest has two characters for each pair. -/
@[simp] theorem digestString_length (ps : List HexPair) : (digestString ps).length = 2 * ps.length := by
  induction ps with
  | nil => rfl
  | cons p ps ih => simp [ih]; omega

/-- Every character of a digest is a hex digit. -/
theorem exists_of_mem_digestString {ps : List HexPair} {c : Char} (h : c ∈ digestString ps) : ∃ d, c = hexChar d := by
  induction ps with
  | nil => simp at h
  | cons p ps ih =>
    simp only [digestString_cons, List.mem_cons] at h
    rcases h with h | h | h
    · exact ⟨_, h⟩
    · exact ⟨_, h⟩
    · exact ih h

/-- Reading a digest gives one byte for each pair, the first digit the high one. -/
theorem hexPairs_digestString (ps : List HexPair) :
    hexPairs (digestString ps) = some (ps.map fun p => BitVec.ofNat 8 (16 * p.high.val + p.low.val)) := by
  induction ps with
  | nil => rfl
  | cons p ps ih => simp [hexPairs, ih]

end Sys2Proof.Machine
end

