-- ==== Sys2Proof/Laws/NoValue.lean ====
section
/-! SUPPORT. The relation `State.FilledIn`: what it keeps, said once (spec/10_state.md R42). -/

namespace Sys2Proof.Machine

namespace State

/-- A read of an alphabet slot that holds a value gives that value. -/
theorem alphaRead_of_entry {s : State} {i : Sym} {v : Chr} (h : s.alphaEntry i = some v) : s.alphaRead i = v := by
  unfold alphaEntry at h
  simp [alphaRead, h]

/-- A read of a key entry that holds a value gives that value. -/
theorem keyRead_of_entry {s : State} {j : BitVec 8} {v : Byte} (h : s.keyEntry j.toNat = some v) : s.keyRead j = v := by
  unfold keyEntry at h
  simp [keyRead, h]

namespace FilledIn

/-- Every state is itself filled in with nothing. -/
theorem refl (s : State) : s.FilledIn s := ⟨rfl, rfl, fun _ _ h => h, fun _ _ h => h⟩

/-- A slot that holds a value reads the same. -/
theorem alphaRead_eq {s u : State} (h : s.FilledIn u) {i : Sym} (hs : (s.alphaEntry i).isSome = true) :
    u.alphaRead i = s.alphaRead i := by
  obtain ⟨v, hv⟩ := Option.isSome_iff_exists.1 hs
  rw [alphaRead_of_entry hv, alphaRead_of_entry (h.alpha i v hv)]

/-- A key entry that holds a value reads the same. -/
theorem keyRead_eq {s u : State} (h : s.FilledIn u) {j : BitVec 8} (hs : (s.keyEntry j.toNat).isSome = true) :
    u.keyRead j = s.keyRead j := by
  obtain ⟨v, hv⟩ := Option.isSome_iff_exists.1 hs
  rw [keyRead_of_entry hv, keyRead_of_entry (h.key _ v hv)]

/-- With every slot loaded the whole alphabet reads the same. -/
theorem alphabet_eq {s u : State} (h : s.FilledIn u) (hs : ∀ i : Sym, (s.alphaEntry i).isSome = true) :
    u.alphabet = s.alphabet := by
  simp only [alphabet, fun i => h.alphaRead_eq (hs i)]

end FilledIn

end State

end Sys2Proof.Machine
end

