-- ==== Sys2Proof/Laws/PerInstr.lean ====
section
/-! SUPPORT. Statements made per command: the family SelectsRow says that a command's encoding selects its own row of the
opcode map (spec/30_encoding.md R83). -/

namespace Sys2Proof.Laws.SelectsRow

/-- The encoding of the command selects the row of its mnemonic. -/
def Statement (i : Instr) : Prop := ∃ r ∈ opcodeMap, r.mnemonic = i.mnemonic ∧ r.Selects (encode i)

/-- Row `k` of the opcode map is in it. -/
theorem row_mem {k : Nat} {r : OpcodeRow} (h : opcodeMap[k]? = some r) : r ∈ opcodeMap := List.mem_of_getElem? h

theorem srst : Statement .srst := ⟨_, row_mem (k := 0) rfl, rfl, by decide⟩

theorem clr : Statement .clr := ⟨_, row_mem (k := 1) rfl, rfl, by decide⟩

theorem lda (idx : Sym) (ch : Chr) : Statement (.lda idx ch) := by
  refine ⟨_, row_mem (k := 2) rfl, rfl, BitVec.eq_of_getLsbD_eq fun k hk => ?_⟩
  simp only [encode, BitVec.getLsbD_and, BitVec.getLsbD_append]
  interval_cases k <;> simp

theorem chka : Statement .chka := ⟨_, row_mem (k := 3) rfl, rfl, by decide⟩

theorem kclr : Statement .kclr := ⟨_, row_mem (k := 4) rfl, rfl, by decide⟩

theorem kpush (b : Byte) : Statement (.kpush b) := by
  refine ⟨_, row_mem (k := 5) rfl, rfl, BitVec.eq_of_getLsbD_eq fun k hk => ?_⟩
  simp only [encode, BitVec.getLsbD_and, BitVec.getLsbD_append]
  interval_cases k <;> simp

theorem setl (v : BitVec 1) : Statement (.setl v) := by
  refine ⟨_, row_mem (k := 6) rfl, rfl, BitVec.eq_of_getLsbD_eq fun k hk => ?_⟩
  simp only [encode, BitVec.getLsbD_and, BitVec.getLsbD_append]
  interval_cases k <;> simp

theorem encb : Statement .encb := ⟨_, row_mem (k := 7) rfl, rfl, by decide⟩

theorem encp (b : Byte) : Statement (.encp b) := by
  refine ⟨_, row_mem (k := 8) rfl, rfl, BitVec.eq_of_getLsbD_eq fun k hk => ?_⟩
  simp only [encode, BitVec.getLsbD_and, BitVec.getLsbD_append]
  interval_cases k <;> simp

theorem ence : Statement .ence := ⟨_, row_mem (k := 9) rfl, rfl, by decide⟩

theorem decb : Statement .decb := ⟨_, row_mem (k := 10) rfl, rfl, by decide⟩

theorem decp (ch : Chr) : Statement (.decp ch) := by
  refine ⟨_, row_mem (k := 11) rfl, rfl, BitVec.eq_of_getLsbD_eq fun k hk => ?_⟩
  simp only [encode, BitVec.getLsbD_and, BitVec.getLsbD_append]
  interval_cases k <;> simp

theorem dece : Statement .dece := ⟨_, row_mem (k := 12) rfl, rfl, by decide⟩

theorem rdst : Statement .rdst := ⟨_, row_mem (k := 13) rfl, rfl, by decide⟩

theorem rdn : Statement .rdn := ⟨_, row_mem (k := 14) rfl, rfl, by decide⟩

theorem pop : Statement .pop := ⟨_, row_mem (k := 15) rfl, rfl, by decide⟩

end Sys2Proof.Laws.SelectsRow
end

