-- ==== Sys2Proof/Tests/Slice0.lean ====
section
/-! SUPPORT. Tests and witnesses. Expected results are taken from spec/95_test_vectors.md and the worked examples of the
rules; the witnesses show that the hypotheses of each statement of Certificates/Slice0/Obligations.lean can be met. -/

namespace Sys2Proof.Tests

open Sys2Proof.Machine

-- ---------------------------------------------------------------- well-formedness: one refused line per check

theorem smoke_lda_idx : (Source.lda 8 0).wellFormed = false ∧ (Source.lda 7 0x1FFFFF).wellFormed = true := by decide
theorem smoke_lda_ch : (Source.lda 0 0x200000).wellFormed = false := by decide
theorem smoke_kpush : (Source.kpush 256).wellFormed = false ∧ (Source.kpush 255).wellFormed = true := by decide
theorem smoke_setl : (Source.setl 2).wellFormed = false ∧ (Source.setl 1).wellFormed = true := by decide
theorem smoke_encp : (Source.encp 256).wellFormed = false ∧ (Source.encp 255).wellFormed = true := by decide
theorem smoke_decp : (Source.decp 0x200000).wellFormed = false ∧ (Source.decp 0x1FFFFF).wellFormed = true := by decide
theorem smoke_alphabet_length : (Source.alphabet [48, 49, 50, 51, 52, 53, 54]).wellFormed = false := by decide
theorem smoke_alphabet_char : (Source.alphabet [48, 49, 50, 51, 52, 53, 54, 0x200000]).wellFormed = false := by decide
theorem smoke_keybytes_empty : (Source.keybytes []).wellFormed = false := by decide
theorem smoke_keybytes_byte : (Source.keybytes [1, 256]).wellFormed = false := by decide
theorem smoke_encode : (Source.encode [256]).wellFormed = false ∧ (Source.encode []).wellFormed = true := by decide
theorem smoke_decode : (Source.decode [0x200000]).wellFormed = false ∧ (Source.decode []).wellFormed = true := by decide

/-- An ill-formed line assembles to nothing (R90: "An operand out of range is an assembler error, not an encoding"). -/
theorem smoke_assemble : assemble 0 (.kpush 256) = none ∧ assemble 0 (.keybytes []) = none := by decide

-- ---------------------------------------------------------------- decoding: words written out from R81 to R83

theorem test_decode_srst : decode 0b0001_0_000_000_000000000000000000000#32 = .ok .srst := by decide
theorem test_decode_clr : decode 0b0010_0_000_000_000000000000000000000#32 = .ok .clr := by decide
theorem test_decode_lda : decode 0b0011_0_011_000_000000000000001111000#32 = .ok (.lda 3 0x78) := by decide
theorem test_decode_chka : decode 0b0100_0_000_000_000000000000000000000#32 = .ok .chka := by decide
theorem test_decode_kclr : decode 0b0101_0_000_000_000000000000000000000#32 = .ok .kclr := by decide
theorem test_decode_kpush : decode 0b0110_0_000_000_000000000000010100111#32 = .ok (.kpush 0xA7) := by decide
theorem test_decode_setl : decode 0b0111_0_000_000_000000000000000000001#32 = .ok (.setl 1) := by decide
theorem test_decode_encb : decode 0b1000_0_000_000_000000000000000000000#32 = .ok .encb := by decide
theorem test_decode_encp : decode 0b1001_0_000_000_000000000000011111111#32 = .ok (.encp 0xFF) := by decide
theorem test_decode_ence : decode 0b1010_0_000_000_000000000000000000000#32 = .ok .ence := by decide
theorem test_decode_decb : decode 0b1011_0_000_000_000000000000000000000#32 = .ok .decb := by decide
theorem test_decode_decp : decode 0b1100_0_000_000_000000010000010100010#32 = .ok (.decp 0x20A2) := by decide
theorem test_decode_dece : decode 0b1101_0_000_000_000000000000000000000#32 = .ok .dece := by decide
theorem test_decode_rdst : decode 0b1110_0_000_000_000000000000000000000#32 = .ok .rdst := by decide
theorem test_decode_rdn : decode 0b1110_0_001_000_000000000000000000000#32 = .ok .rdn := by decide
theorem test_decode_pop : decode 0b1111_0_000_000_000000000000000000000#32 = .ok .pop := by decide

/-- spec/95_test_vectors.md section 4, the illegal words that start a clause of R85. -/
theorem test_illegal_a : decode 0x00000000#32 = .error .opZero := by decide
theorem test_illegal_b : decode 0x10000001#32 = .error .operandOnNone ∧ decode 0xA1000000#32 = .error .operandOnNone := by
  decide
theorem test_illegal_c : decode 0x38000030#32 = .error .ldaReserved ∧ decode 0x30200030#32 = .error .ldaReserved := by
  decide
theorem test_illegal_d : decode 0x60000100#32 = .error .byteReserved ∧ decode 0x90000100#32 = .error .byteReserved := by
  decide
theorem test_illegal_e : decode 0x70000002#32 = .error .flagReserved := by decide
theorem test_illegal_f : decode 0xC0200000#32 = .error .charReserved := by decide
theorem test_illegal_g : decode 0xE2000000#32 = .error .readSelector := by decide
theorem test_illegal_pop : decode 0xF0000001#32 = .error .operandOnNone ∧ decode 0xFFFFFFFF#32 = .error .operandOnNone := by
  decide

/-- The largest operands of section 4. -/
theorem test_decode_largest : decode 0x371FFFFF#32 = .ok (.lda 7 0x1FFFFF) ∧
    decode 0xC01FFFFF#32 = .ok (.decp 0x1FFFFF) := by decide

theorem test_table_word : decodeTableWord 32 0x600000FF = some (.kpush 0xFF) ∧ decodeTableWord 32 0x60000100 = none := by
  decide

/-- R90's examples. -/
theorem test_encode_r90 : encode (.lda 3 0x78) = 0x33000078#32 ∧ encode (.kpush 0xA7) = 0x600000A7#32 ∧
    encode (.decp 0x20A2) = 0xC00020A2#32 := by decide

theorem test_assemble_line : assembleLine 0 "LDA 3, 'x'   ; a comment".toList = some [.lda 3 0x78] := by decide
theorem test_assemble_line_wide : assembleLine 0 "KPUSH 0x100".toList = none := by decide
/-- The model's choice (log 11): a string has no escape, and a double quote alone is a quoted character. -/
theorem test_assemble_double_quote : assembleLine 0 ['D', 'E', 'C', 'O', 'D', 'E', ' ', '"', '\\', '"', '"'] = none ∧
    assembleLine 0 ['D', 'E', 'C', 'P', ' ', '\'', '"', '\''] = some [.decp 0x22] := by decide
theorem test_assemble_encode : assembleLine 0 "ENCODE 5, 0xC8".toList = some [.encb, .encp 5, .encp 200, .ence] := by decide

-- ---------------------------------------------------------------- sample states

/-- The alphabet "01234567" of spec/95_test_vectors.md. -/
def digits : Vector (Option Chr) 8 :=
  #v[some 0x30, some 0x31, some 0x32, some 0x33, some 0x34, some 0x35, some 0x36, some 0x37]

/-- The machine after reset and `ALPHABET "01234567"`, with the smallest capacities. -/
def cfg : State := { State.resetWith ⟨1, 8⟩ with alpha := digits, aloaded := 0xFF, alphaOk := true }

/-- An encode transaction with `n` bytes in the group. -/
def encS (g : Group) (n : BitVec 3) (rb : List Chr) : State :=
  { cfg with mode := .enc, grp := g, gcnt := n, rb := rb }

/-- A decode transaction with `n` symbols in the group. -/
def decS (g : Group) (n : BitVec 3) (u : U8) (rb : List Chr) : State :=
  { cfg with mode := .dec, rkind := .bytes, grp := g, gcnt := n, u8 := u, rb := rb }

/-- A closed transaction. -/
def doneS (k : RKind) (v : Verdict) (u : U8) (rb : List Chr) : State :=
  { cfg with mode := .done, rkind := k, verdict := v, u8 := u, rb := rb }

/-- The faulted form of a state. -/
def faultedS (s : State) : State := { s with fcause := .seqError }

/-- The next state of an outcome. -/
def nextOf {σ φ ρ : Type} : Host.Outcome σ φ ρ → Option σ
  | .next t => some t
  | .fault _ => none
  | .refused _ => none

/-- The response and `STATUS` after a command, as spec/95_test_vectors.md writes them. -/
def after (i : Instr) (s : State) : Option (Option Response × Word) :=
  (nextOf (exec i s)).map fun t => (t.rsp, t.status)

/-- Five facts about a state after a command: `GRP`, `GCNT`, `KIDX`, `U8`, `RB`. -/
def datapath (i : Instr) (s : State) : Option (Group × BitVec 3 × BitVec 8 × U8 × List Chr) :=
  (nextOf (exec i s)).map fun t => (t.grp, t.gcnt, t.kidx, t.u8, t.rb)

-- ---------------------------------------------------------------- one step per command (95_test_vectors.md 2.1 to 2.4, 2.7)

theorem test_srst : after .srst cfg = some (some ⟨false, 0⟩, 0x00010000#32) := by decide
theorem test_clr : after .clr (faultedS (encS 0x040000 1 [])) = some (some ⟨false, 0⟩, 0xFF010010#32) := by decide
theorem test_lda_A1 : after (.lda 3 0x78) State.reset = some (some ⟨false, 0⟩, 0x08010000#32) := by decide
theorem test_lda_A7 : after (.lda 0 0x30) cfg = some (some ⟨false, 0⟩, 0xFF010000#32) := by decide
theorem test_chka_unloaded : after .chka State.reset = some (some ⟨true, 0⟩, 0x00010100#32) := by decide
theorem test_chka_A5 : after .chka { cfg with alpha := digits.set 7 (some 0x30), alphaOk := false } =
    some (some ⟨true, 0⟩, 0xFF010100#32) := by decide
theorem test_chka_A10 : after .chka { cfg with alphaOk := false } = some (some ⟨false, 0⟩, 0xFF010010#32) := by decide
theorem test_kclr_A13 : after .kclr cfg = some (some ⟨false, 0⟩, 0xFF000010#32) := by decide
theorem test_kpush_overflow : after (.kpush 63) cfg = some (some ⟨true, 0⟩, 0xFF010710#32) := by decide
theorem test_kpush_A14 : (nextOf (exec (.kpush 0xA7) { cfg with keylen := 0, key := [none] })).map (fun t => (t.key, t.keylen)) =
    some ([some 0xA7], 1) := by decide
theorem test_setl_A11 : after (.setl 1) cfg = some (some ⟨false, 0⟩, 0xFF010030#32) := by decide
theorem test_encb_A8 : after .encb { cfg with alphaOk := false } = some (some ⟨true, 0⟩, 0xFF010500#32) := by decide
theorem test_encb_order : after .encb { State.reset with keylen := 0 } = some (some ⟨true, 0⟩, 0x00000500#32) := by decide
/-- P1's third byte: 0xE2 with key byte 3 completes 0x496BE5, "22265745". -/
theorem test_encp_P1 : datapath (.encp 0xE2) { encS 0x496B00 2 [] with
      params := ⟨3, 8⟩, key := [some 1, some 2, some 3], keylen := 3, kidx := 2 } =
    some (0, 0, 0, .s0, [0x32, 0x32, 0x32, 0x36, 0x35, 0x37, 0x34, 0x35]) := by decide
/-- The wrap of 2.2: 0xFF + 0xFF is 0xFE, in the second byte of a group. -/
theorem test_encp_wrap : datapath (.encp 0xFF) { encS 0x490000 1 [] with key := [some 0xFF] } =
    some (0x49FE00, 2, 0, .s0, []) := by decide
theorem test_ence_E3 : datapath .ence (encS 0xFFFF00 2 []) =
    some (0, 0, 0, .s0, [0x37, 0x37, 0x37, 0x37, 0x37, 0x34]) := by decide
theorem test_ence_overflow : after .ence (encS 0x040000 1 [0x30, 0x30, 0x32, 0x30, 0x31, 0x30, 0x30, 0x33]) =
    some (some ⟨true, 0⟩, 0xFF010811#32) := by decide
theorem test_decb : after .decb cfg = some (some ⟨false, 0⟩, 0xFF010052#32) := by decide
theorem test_decb_keyEmpty : after .decb { cfg with keylen := 0, key := [none] } =
    some (some ⟨true, 0⟩, 0xFF000610#32) := by decide
/-- P2's eighth symbol: '5' completes 0x496BE5 and gives 48 69 E2 with `U8` in `S2`. -/
theorem test_decp_P2 : datapath (.decp 0x35) { decS 0x496BE0 7 .s0 [] with
      params := ⟨3, 8⟩, key := [some 1, some 2, some 3], keylen := 3 } =
    some (0, 0, 0, .s2, [0x48, 0x69, 0xE2]) := by decide
theorem test_decp_skip : datapath (.decp 0x20) (decS 0x496A00 5 .s0 []) = some (0x496A00, 5, 0, .s0, []) := by decide
theorem test_dece_D11 : after .dece (decS 0xF00000 3 .s0 []) = some (some ⟨true, 0⟩, 0xFF01025F#32) := by decide
theorem test_dece_D11_legacy : after .dece { decS 0xF00000 3 .s0 [] with legacy := true } =
    some (some ⟨false, 0⟩, 0xFF01007B#32) := by decide
theorem test_rdst : after .rdst State.reset = some (some ⟨false, 0x00010000⟩, 0x00010000#32) := by decide
theorem test_rdn : after .rdn (doneS .chars .ok .s0 [0x37, 0x34, 0x30]) = some (some ⟨false, 3⟩, 0xFF010017#32) := by decide
theorem test_pop : (nextOf (exec .pop (doneS .chars .ok .s0 [0x37, 0x34, 0x30]))).map (fun t => (t.rsp, t.rb)) =
    some (some ⟨false, 0x37⟩, [0x34, 0x30]) := by decide
theorem test_pop_empty : after .pop (doneS .chars .ok .s0 []) = some (some ⟨true, 0⟩, 0xFF010917#32) := by decide
theorem test_seqError : after (.lda 0 0x41) (encS 0 0 []) = some (some ⟨true, 0⟩, 0xFF010411#32) := by decide
theorem test_refusal : after (.lda 0 0x30) (faultedS (encS 0 0 [])) = some (some ⟨true, 0⟩, 0xFF010411#32) := by decide
theorem test_illegal_word : (nextOf (step (cfg.offer 0x90000100#32))).map (fun t => (t.rsp, t.status)) =
    some (some ⟨true, 0⟩, 0xFF010310#32) := by decide
theorem test_withFetchWord : (nextOf (step (State.reset.withFetchWord 32 0x80000000))).map (fun t => (t.rsp, t.status)) =
    some (some ⟨true, 0⟩, 0x00010500#32) := by decide

-- ---------------------------------------------------------------- the pure functions: S1 to S7 of 95_test_vectors.md

theorem test_S1 : shift [4, 5, 6] [2] = [6, 7, 8] := by decide
theorem test_S2 : unshift [6, 7, 8] [2] = [4, 5, 6] := by decide
theorem test_key_cycle : shift [250, 251, 252, 253] [10, 0xFF] = [4, 250, 6, 252] := by decide
theorem test_S3 : joinOctets [5, 8, 200] = "000001010000100011001000".toList.map (· == '1') := by decide
theorem test_S4 : splitTriplets ("11110000".toList.map (· == '1')) = [7, 4, 0] := by decide
theorem test_S5 : encodeCharset [0, 1, 2, 3, 4, 5, 6, 7] cfg.alphabet =
    [0x30, 0x31, 0x32, 0x33, 0x34, 0x35, 0x36, 0x37] := by decide
theorem test_S6 : splitOctets ("111111110".toList.map (· == '1')) = [255] := by decide
/-- The part of DOC00's noise vector up to the first 2: `0 e 1 sefg 2` with its accented letter. -/
theorem test_S7 : decodeCharset [0x30, 0x20, 0x65, 0x20, 0x31, 0x20, 0x73, 0xE9, 0x66, 0x67, 0x20, 0x32, 0x20A2] cfg.alphabet =
    [0, 1, 2] := by decide
theorem test_S11 : joinTriplets [7, 4, 0] = "11110000".toList.map (· == '1') := by decide

-- ---------------------------------------------------------------- UTF-8: rows of 95_test_vectors.md 2.5

theorem test_u8_overlong3 : u8Run [0xE0, 0x9F, 0xBF] = .bad ∧ u8Run [0xE0, 0xA0, 0x80] = .s0 := by decide
theorem test_u8_surrogate : u8Run [0xED, 0xA0, 0x80] = .bad ∧ u8Run [0xED, 0x9F, 0xBF] = .s0 := by decide
theorem test_u8_overlong4 : u8Run [0xF0, 0x8F, 0xBF, 0xBF] = .bad ∧ u8Run [0xF0, 0x90, 0x80, 0x80] = .s0 := by decide
theorem test_u8_top : u8Run [0xF4, 0x90, 0x80, 0x80] = .bad ∧ u8Run [0xF4, 0x8F, 0xBF, 0xBF] = .s0 := by decide
theorem test_u8_truncated : u8Run [0xE2, 0x82] = .s1 ∧ u8Run [0x41, 0x80, 0x41] = .bad ∧ u8Run [0xC1, 0xBF] = .bad := by
  decide

-- ---------------------------------------------------------------- the host's functions

theorem test_deriveBytes : deriveBytes "a70f".toList = some [0xA7, 0x0F] ∧ deriveBytes [] = some [0] ∧
    deriveBytes "A7".toList = none ∧ deriveBytes "a7f".toList = none := by decide
theorem test_digestString : digestString [⟨10, 7⟩, ⟨0, 15⟩] = "a70f".toList := by decide
/-- The byte values that 93_implementation_defined.md G2 names. -/
theorem test_serialize : serialize [0xE9, 0x20AC, 0x1F600] = some [0xC3, 0xA9, 0xE2, 0x82, 0xAC, 0xF0, 0x9F, 0x98, 0x80] := by
  decide
theorem test_deserialize : deserialize [0x48, 0xE2, 0x82, 0xAC] = some [0x48, 0x20AC] := by decide
theorem test_joinSurrogates : joinSurrogates [0x41, 0xD83D, 0xDE00] = some [0x41, 0x1F600] ∧
    joinSurrogates [0xD83D] = none := by decide

-- ---------------------------------------------------------------- sample states meet the invariant

/-- A state with the configuration of `cfg` meets the invariant if its other elements do. -/
theorem inv_of_cfg {s : State} (hp : s.params = cfg.params) (ha : s.alpha = digits) (hl : s.aloaded = 0xFF)
    (ho : s.alphaOk = true) (hk : s.key = [some 0]) (hn : s.keylen = 1)
    (h1 : s.mode = .idle →
      s.grp = 0 ∧ s.gcnt = 0 ∧ s.kidx = 0 ∧ s.u8 = .s0 ∧ s.rb = [] ∧ s.rkind = .chars ∧ s.verdict = .none)
    (h3 : s.mode = .enc ∨ s.mode = .dec → s.kidx.toNat < 1 ∧ s.verdict = .none)
    (h4 : s.mode = .enc →
      s.gcnt.toNat ≤ 2 ∧ s.u8 = .s0 ∧ s.rkind = .chars ∧ s.rb.length % 8 = 0 ∧ s.GroupClearBelow (8 * s.gcnt.toNat))
    (h5 : s.mode = .dec →
      s.gcnt.toNat ≤ 7 ∧ s.rkind = .bytes ∧ s.rb.length % 3 = 0 ∧ s.GroupClearBelow (3 * s.gcnt.toNat))
    (h6 : s.mode = .done → s.grp = 0 ∧ s.gcnt = 0 ∧ s.verdict ≠ .none)
    (h7 : (s.verdict = .malformed ↔ s.fcause = .malformedUtf8) ∧ (s.verdict = .malformed → s.rb = [] ∧ s.mode = .done))
    (h8 : s.rb.length ≤ 8) (e1 : s.rkind = .chars → s.u8 = .s0)
    (e2 : (s.rb.all fun v => decide (v.toNat < 256)) = true)
    (e3 : s.mode = .done → s.rkind = .chars → s.verdict = .ok)
    (e4 : s.mode = .done → s.rkind = .bytes →
      s.verdict = (if s.u8 = .s0 then .ok else if s.legacy = true then .legacy else .malformed)) : s.Inv := by
  have hread : ∀ i : Sym, s.alphaRead i = cfg.alphaRead i := fun i => by simp only [State.alphaRead, ha]; rfl
  have hdist : s.alphabet.toList.Pairwise (· ≠ ·) := by
    have : s.alphabet = cfg.alphabet := by simp only [State.alphabet, hread]
    rw [this]; decide
  have hentry : ∀ i : Sym, (s.alphaEntry i).isSome = true := by
    have : ∀ i : Sym, (cfg.alphaEntry i).isSome = true := by decide
    intro i
    have := this i
    simp only [State.alphaEntry, ha] at *
    exact this
  have hkey : ∀ j, 1 ≤ j → s.keyEntry j = none := by
    intro j hj
    have : ([some (0 : Byte)])[j]? = none := List.getElem?_eq_none (by simpa using hj)
    simp only [State.keyEntry, hk]
    rw [this]; rfl
  have hlen : s.keylen.toNat = 1 := by rw [hn]; rfl
  refine ⟨⟨h1, fun _ => ⟨ho, hl, by omega, hdist⟩, fun h => by simpa [hlen] using h3 h, h4, h5, h6, h7, ⟨?_, ?_⟩, ?_,
    fun i _ => hentry i⟩, ⟨?_, ?_, fun j hj => hkey j (by omega), fun i hi => ?_, fun _ => ⟨hl, hdist⟩, e1,
    fun _ v hv => by simpa using List.all_eq_true.1 e2 v hv, e3, e4⟩⟩
  · rw [hlen, hp]; decide
  · rw [hp]; exact h8
  · intro j hj
    have : j = 0 := by omega
    subst this
    simp [State.keyEntry, hk]
  · rw [hp]; decide
  · rw [hk, hp]; rfl
  · rw [hl] at hi
    have : ∀ i : Sym, (0xFF#8).getLsbD i.toNat = true := by decide
    simp [this i] at hi

/-- The reset state of the smallest capacities meets the invariant. -/
theorem inv_reset : (State.resetWith ⟨1, 8⟩).Inv := by
  have hslot : ∀ i : Sym, (State.resetWith ⟨1, 8⟩).alphaEntry i = none := by decide
  have hkey : ∀ j, 1 ≤ j → (State.resetWith ⟨1, 8⟩).keyEntry j = none := by
    intro j hj
    have : ([some (0 : Byte)])[j]? = none := List.getElem?_eq_none (by simpa using hj)
    show ([some (0 : Byte)])[j]?.join = none
    rw [this]; rfl
  refine ⟨⟨by decide, by decide, by decide, by decide, by decide, by decide, by decide, by decide, ⟨by decide, ?_⟩⟩,
    ⟨by decide, rfl, hkey, fun i _ => hslot i, by decide, by decide, ?_, by decide, by decide⟩⟩
  · exact fun i hi => absurd hi (by revert i; decide)
  · exact fun h => absurd h (by decide)

theorem inv_cfg : cfg.Inv := by apply inv_of_cfg <;> decide
theorem inv_enc : (encS 0x490000 1 []).Inv := by apply inv_of_cfg <;> decide
theorem inv_dec : (decS 0x496BE0 7 .s2 [0x48, 0x69, 0xE2]).Inv := by apply inv_of_cfg <;> decide
theorem inv_done_chars : (doneS .chars .ok .s0 [0x37, 0x34, 0x30]).Inv := by apply inv_of_cfg <;> decide
theorem inv_done_bytes : (doneS .bytes .ok .s0 [0x48]).Inv := by apply inv_of_cfg <;> decide
theorem inv_done_malformed : { doneS .bytes .malformed .sf0 [] with fcause := .malformedUtf8 }.Inv := by
  apply inv_of_cfg <;> decide

-- ---------------------------------------------------------------- witnesses: the hypotheses of the statements can be met

theorem ready_cfg : cfg.Ready := by decide

theorem witness_DecodeInvertsEncode : decode 0x371FFFFF#32 = .ok (.lda 7 0x1FFFFF) := by decide

/-- The opcode map's third row, and one word of each form with operands. -/
theorem witness_OpcodeMapSelects :
    (OpcodeRow.mk "LDA" 0x30000000#32 0xF8E00000#32 ∈ opcodeMap ∧
      (OpcodeRow.mk "LDA" 0x30000000#32 0xF8E00000#32).Selects 0x371FFFFF#32) ∧
    decode 0x371FFFFF#32 = .ok (.lda 7 0x1FFFFF) ∧ decode 0x600000FF#32 = .ok (.kpush 0xFF) ∧
    decode 0x70000001#32 = .ok (.setl 1) ∧ decode 0x900000FF#32 = .ok (.encp 0xFF) ∧
    decode 0xC01FFFFF#32 = .ok (.decp 0x1FFFFF) := by decide

theorem witness_IllegalWordsAreExactly :
    (cfg.offer 0x90000100#32).port = [.command 0x90000100#32] ∧ decode 0x90000100#32 = .error .byteReserved := by decide

/-- R90's ranges at their ends, for the equivalences. -/
theorem witness_SourceLinesAssemble :
    assemble 0 (.lda 7 0x1FFFFF) = some [.lda 7 0x1FFFFF] ∧ assemble 0 (.lda 8 0) = none ∧
    assemble 0 (.decp 0x200000) = none ∧ assemble 0 (.setl 2) = none ∧ assemble 0 (.alphabet [48]) = none ∧
    [255#8] ≠ [] ∧ assemble 0 (.encode [256]) = none ∧ assemble 0 (.encode [255]) = some [.encb, .encp 255, .ence] ∧
    assemble 0 (.decode [0x200000]) = none ∧ assemble 2 .drain = some [.rdn, .pop, .pop] := by decide

theorem witness_StepRunsTheDecodedCommand :
    (cfg.offer 0x80000000#32).port = [.command 0x80000000#32] ∧ decode 0x80000000#32 = .ok .encb := by decide

theorem witness_EveryStepAnswers : cfg.port = [] ∧ (cfg.offer 0#32).port = [.command 0#32] := by decide

/-- Of each clause: an illegal word; a refused command; `RDST`, `RDN`, `POP` and another command without fault. -/
theorem witness_ResponseIsFaultBitAndData :
    (cfg.offer 0#32).port = [.command 0#32] ∧ decode 0#32 = .error .opZero ∧
    decode 0xE0000000#32 = .ok .rdst ∧ decode 0xE1000000#32 = .ok .rdn ∧ decode 0xF0000000#32 = .ok .pop ∧
    (nextOf (step ((doneS .chars .ok .s0 [0x37]).offer 0xF0000000#32))).bind State.rsp = some ⟨false, 0x37⟩ ∧
    (nextOf (step ((doneS .chars .ok .s0 [0x37]).offer 0xE1000000#32))).bind State.rsp = some ⟨false, 1⟩ ∧
    (nextOf (step (cfg.offer 0xE0000000#32))).bind State.rsp = some ⟨false, 0xFF010010⟩ ∧
    (nextOf (step (cfg.offer 0x80000000#32))).bind State.rsp = some ⟨false, 0⟩ ∧
    (nextOf (step ((faultedS cfg).offer 0x80000000#32))).bind State.rsp = some ⟨true, 0⟩ := by decide

theorem witness_ResetValues :
    (encS 0x490000 1 []).params.InRange ∧
    ({ encS 0x490000 1 [] with port := [.hardReset] }).port = [.hardReset] ∧
    ((encS 0x490000 1 []).offer 0x10000000#32).port = [.command 0x10000000#32] := by decide

theorem witness_SoftResetIsHardwareReset :
    ({ cfg with port := [.hardReset] }).port = [.hardReset] ∧
    ∃ t u, exec .srst cfg = .next t ∧ exec .rdst t = .next u := ⟨rfl, _, _, rfl, rfl⟩

theorem witness_ClrClearsTransactionAndFault : cfg.R40 ∧ cfg.mode = .idle ∧ cfg.fcause = .noFault :=
  ⟨inv_cfg.r40, by decide⟩

theorem witness_LdaLoadsSlot : (cfg.fcause = .noFault ∧ cfg.mode = .idle) ∧
    ((encS 0 0 []).fcause = .noFault ∧ (encS 0 0 []).mode ≠ .idle) ∧ (0 : Sym) ≠ 7 := by decide

theorem witness_CheckCharset : checkCharset cfg.alphabet.toList = true ∧ checkCharset [0x30] = false := by decide

/-- Of each clause: eight distinct characters, a slot not loaded, a repeated character, another mode. -/
theorem witness_ChkaChecksAlphabet :
    (cfg.mode = .idle ∧ cfg.aloaded = 0xFF#8 ∧ ∀ i j : Sym, i.toNat < j.toNat → cfg.alphaRead i ≠ cfg.alphaRead j) ∧
    ({ cfg with aloaded := 0x7F }).aloaded ≠ 0xFF#8 ∧
    ({ cfg with alpha := digits.set 7 (some 0x30) }).alphaRead 0 = ({ cfg with alpha := digits.set 7 (some 0x30) }).alphaRead 7 ∧
    (encS 0 0 []).mode ≠ .idle := by decide

theorem witness_KclrEmptiesKey : cfg.fcause = .noFault ∧ cfg.mode = .idle ∧ cfg.alphaOk = true ∧
    cfg.params.InRange ∧ cfg.key.length = cfg.params.keyMax ∧ (encS 0 0 []).mode ≠ .idle := by decide

/-- A full array, and the last free place of the largest one that R5 allows. -/
theorem witness_KpushAppendsKeyByte :
    (cfg.fcause = .noFault ∧ cfg.mode = .idle ∧ cfg.keylen.toNat = cfg.params.keyMax) ∧
    (({ State.resetWith ⟨255, 8⟩ with keylen := 254 }).keylen.toNat < 255 ∧
      ({ State.resetWith ⟨255, 8⟩ with keylen := 254 }).key.length = 255) ∧ (encS 0 0 []).mode ≠ .idle :=
  ⟨by decide, ⟨by decide, congrArg (· + 1) List.length_replicate⟩, by decide⟩

theorem witness_SetlWritesLegacy : cfg.fcause = .noFault ∧ cfg.mode = .idle ∧ (encS 0 0 []).mode ≠ .idle := by decide

/-- Of each clause: ready, alphabet not checked, key empty, another mode. -/
theorem witness_EncbOpensEncode :
    (cfg.fcause = .noFault ∧ cfg.mode = .idle ∧ cfg.alphaOk = true ∧ cfg.keylen ≠ 0) ∧
    State.reset.alphaOk = false ∧ (State.reset.mode = .idle ∧ State.reset.fcause = .noFault) ∧
    ({ cfg with keylen := 0 }).keylen = 0 ∧ (encS 0 0 []).mode ≠ .idle := by decide

/-- And for the last clause, of `DECB` too. -/
theorem witness_EncbOpensEncode_clear : cfg.R40 ∧ cfg.mode = .idle := ⟨inv_cfg.r40, rfl⟩

/-- Of each clause: room for a second byte, a third byte with room, a third byte without. -/
theorem witness_EncpShiftsAndPacks :
    ((encS 0x490000 1 []).fcause = .noFault ∧ (encS 0x490000 1 []).mode = .enc ∧ (encS 0x490000 1 []).gcnt.toNat < 2 ∧
      (encS 0x490000 1 []).keylen ≠ 0) ∧
    (0x69#8).toNat = ((0x69#8).toNat + ((encS 0x490000 1 []).keyRead 0).toNat) % 256 ∧
    (0x496900#24) = 0x490000#24 ||| (0x69#8).setWidth 24 <<< (16 - 8 * 1) ∧
    ((encS 0x490000 2 []).gcnt.toNat = 2 ∧ (encS 0x490000 2 []).rb.length + 8 ≤ (encS 0x490000 2 []).params.rbMax) ∧
    (encS 0x490000 2 (List.replicate 8 0x30)).params.rbMax < (encS 0x490000 2 (List.replicate 8 0x30)).rb.length + 8 ∧
    cfg.mode ≠ .enc := by decide

/-- Of each clause: 0, 1 and 2 bytes in the group, with room and without. -/
theorem witness_EnceFlushesAndCloses :
    (encS 0 0 []).gcnt.toNat = 0 ∧ (encS 0x490000 1 []).gcnt.toNat = 1 ∧ (encS 0x490000 2 []).gcnt.toNat = 2 ∧
    (encS 0x490000 2 []).rb.length + 6 ≤ (encS 0x490000 2 []).params.rbMax ∧
    (encS 0x490000 1 (List.replicate 8 0x30)).params.rbMax < (encS 0x490000 1 (List.replicate 8 0x30)).rb.length + 3 ∧
    (encS 0 0 []).mode = .enc ∧ (encS 0 0 []).fcause = .noFault ∧ cfg.mode ≠ .enc := by decide

theorem witness_EmitByteUnshifts : (decS 0 0 .s0 []).keylen ≠ 0 ∧
    (0x45#8).toNat = ((0x45#8).toNat + (256 - ((decS 0 0 .s0 []).keyRead (decS 0 0 .s0 []).kidx).toNat)) % 256 ∧
    (0#8).toNat = ((decS 0 0 .s0 []).kidx.toNat + 1) % (decS 0 0 .s0 []).keylen.toNat := by decide

theorem witness_DecbOpensDecode :
    (cfg.fcause = .noFault ∧ cfg.mode = .idle ∧ cfg.alphaOk = true ∧ cfg.keylen ≠ 0) ∧ State.reset.alphaOk = false ∧
    ({ cfg with keylen := 0 }).keylen = 0 ∧ (decS 0 0 .s0 []).mode ≠ .idle := by decide

theorem witness_LutMatchFindsTheEntry : (decS 0x496BE0 7 .s2 [0x48, 0x69, 0xE2]).R40 ∧
    (decS 0x496BE0 7 .s2 [0x48, 0x69, 0xE2]).mode ≠ .idle ∧ cfg.lutMatch 0x20 = none ∧
    (decS 0x496BE0 7 .s2 [0x48, 0x69, 0xE2]).lutMatch 0x35 = some 5 ∧
    (decS 0x496BE0 7 .s2 [0x48, 0x69, 0xE2]).alphaRead 5 = 0x35 := ⟨inv_dec.r40, by decide⟩

/-- Of each clause: another mode, a skipped character, the seventh symbol, the eighth with room and without. -/
theorem witness_DecpMatchesAndUnpacks :
    cfg.mode ≠ .dec ∧ ((decS 0 6 .s0 []).mode = .dec ∧ ∀ j : Sym, (decS 0 6 .s0 []).alphaRead j ≠ 0x20) ∧
    ((decS 0 6 .s0 []).alphaRead 5 = 0x35 ∧ ∀ j : Sym, j.toNat < (5 : Sym).toNat → (decS 0 6 .s0 []).alphaRead j ≠ 0x35) ∧
    (decS 0 6 .s0 []).gcnt.toNat < 7 ∧ (decS 0 7 .s0 []).gcnt.toNat = 7 ∧
    (decS 0 7 .s0 []).rb.length + 3 ≤ (decS 0 7 .s0 []).params.rbMax ∧
    (decS 0 7 .s0 (List.replicate 6 0x30)).params.rbMax < (decS 0 7 .s0 (List.replicate 6 0x30)).rb.length + 3 := by decide

/-- Of each clause: no room, valid, not valid with and without the legacy flag, another mode. -/
theorem witness_DeceGivesTheVerdict :
    ((decS 0x410000 3 .s0 []).fcause = .noFault ∧ (decS 0x410000 3 .s0 []).mode = .dec ∧
      (decS 0x410000 3 .s0 []).rb.length + 1 ≤ (decS 0x410000 3 .s0 []).params.rbMax ∧
      ((decS 0x410000 3 .s0 []).emitBytes 0x410000 1).u8 = .s0) ∧
    ((decS 0xF00000 3 .s0 []).emitBytes 0xF00000 1).u8 ≠ .s0 ∧ (decS 0xF00000 3 .s0 []).legacy = false ∧
    ({ decS 0xF00000 3 .s0 [] with legacy := true }).legacy = true ∧
    (decS 0 6 .s0 (List.replicate 7 0x30)).params.rbMax < (decS 0 6 .s0 (List.replicate 7 0x30)).rb.length + 2 ∧
    cfg.mode ≠ .dec := by decide

theorem witness_RdnReturnsCount : (encS 0x490000 1 []).R40 ∧ (decS 0x496BE0 7 .s2 [0x48, 0x69, 0xE2]).R40 ∧
    { doneS .bytes .malformed .sf0 [] with fcause := .malformedUtf8 }.R40 ∧ cfg.params.InRange :=
  ⟨inv_enc.r40, inv_dec.r40, inv_done_malformed.r40, by decide⟩

/-- Of each clause: an item, none left, another mode, faulted. -/
theorem witness_PopTakesTheHead :
    ((doneS .bytes .ok .s0 [0x48]).fcause = .noFault ∧ (doneS .bytes .ok .s0 [0x48]).mode = .done ∧
      (doneS .bytes .ok .s0 [0x48]).rb = [0x48] ∧ (doneS .bytes .ok .s0 [0x48]).rkind = .bytes) ∧
    (doneS .bytes .ok .s0 []).rb = [] ∧ cfg.mode ≠ .done ∧ (faultedS cfg).fcause ≠ .noFault := by decide

theorem witness_PopTakesTheHead_inv : (doneS .bytes .ok .s0 [0x48]).Inv := inv_done_bytes

theorem witness_PopsDrainInOrder : (doneS .chars .ok .s0 [0x37, 0x34, 0x30]).fcause = .noFault ∧
    (doneS .chars .ok .s0 [0x37, 0x34, 0x30]).mode = .done := by decide

/-- A faulted state and an input of each kind; and one that is not faulted. -/
theorem witness_FirstFaultWins :
    ((faultedS cfg).offer 0#32).fcause ≠ .noFault ∧ cfg.fcause = .noFault ∧
    (nextOf (step ((faultedS cfg).offer 0#32))).map State.fcause = some .seqError ∧
    (nextOf (step ((faultedS cfg).offer 0x20000000#32))).map State.fcause = some .noFault ∧
    (nextOf (step { faultedS cfg with port := [.hardReset] })).map State.fcause = some .noFault := by decide

theorem witness_FaultedRefusesCommands : (faultedS cfg).fcause ≠ .noFault ∧ Instr.pop ≠ .srst ∧ Instr.pop ≠ .clr ∧
    Instr.pop ≠ .rdst ∧ Instr.pop ≠ .rdn ∧ ((faultedS cfg).offer (encode .pop)).port = [.command (encode .pop)] := by decide

theorem witness_SeqErrorOutsideItsMode : cfg.fcause = .noFault ∧ legalIn .pop cfg.mode = false := by decide

/-- A legal command, one out of its mode, and `CLR` in another mode than `IDLE`. -/
theorem witness_ModeMachine : cfg.fcause = .noFault ∧ legalIn .encb cfg.mode = true ∧ legalIn .pop cfg.mode = false ∧
    (nextOf (exec .encb cfg)).map State.mode = some .enc ∧
    (encS 0 0 []).mode ≠ .idle ∧ (nextOf (exec .clr (encS 0 0 []))).map State.mode = some .idle := by decide

/-- A legal command that succeeds, and one that raises its own cause. -/
theorem witness_CommandsRaiseOnlyTheirCauses :
    legalIn .encb State.reset.mode = true ∧ State.reset.fcause = .noFault ∧
    (nextOf (exec .encb State.reset)).map State.fcause = some .alphabetNotReady ∧
    (nextOf (exec .encb cfg)).map State.fcause = some .noFault := by decide

/-- A fault of each of the three kinds. -/
theorem witness_FaultsArePrecise :
    (nextOf (exec .encb State.reset)).map State.fcause = some .alphabetNotReady ∧
    (nextOf (exec .chka State.reset)).map State.fcause = some .invalidAlphabet ∧
    (nextOf (exec .dece (decS 0xF00000 3 .s0 []))).map State.fcause = some .malformedUtf8 := by decide

theorem witness_OnlyWritersWrite : (∃ t, exec .encb cfg = .next t) ∧ Instr.encb ≠ .srst ∧
    (nextOf (exec .encb State.reset)).map State.fcause ≠ some State.reset.fcause := ⟨⟨_, rfl⟩, by decide⟩

theorem witness_ConfigurationIsFrozenOutsideIdle :
    ((encS 0 0 []).offer (encode (.lda 0 0x41))).mode ≠ .idle ∧
    ((encS 0 0 []).offer (encode (.lda 0 0x41))).port = [.command (encode (.lda 0 0x41))] ∧
    Input.command (encode (.lda 0 0x41)) ≠ .hardReset ∧
    Input.command (encode (.lda 0 0x41)) ≠ .command (encode .srst) ∧
    (nextOf (step ((encS 0 0 []).offer (encode (.lda 0 0x41))))).isSome = true := by decide

theorem witness_KeyBytesAreNotReadBack : Instr.encp 5 ≠ .dece ∧
    ∃ t u, exec (.encp 5) (encS 0 0 []) = .next t ∧ exec (.encp 5) { encS 0 0 [] with key := [some 7] } = .next u :=
  ⟨by decide, _, _, rfl, rfl⟩

theorem witness_ResetMeetsTheInvariant : (⟨1, 8⟩ : Params).InRange ∧ (⟨255, 4294967295⟩ : Params).InRange := by decide

theorem witness_StepKeepsTheInvariant : (encS 0x490000 1 []).Inv ∧ ∃ t, step (encS 0x490000 1 []) = .next t :=
  ⟨inv_enc, _, rfl⟩

theorem witness_ReachableStatesMeetR40 : (⟨1, 8⟩ : Params).InRange ∧
    ∃ rs t, runWords [0x30000030#32, 0x80000000#32] (State.resetWith ⟨1, 8⟩) = .next (rs, t) :=
  ⟨by decide, _, _, rfl⟩

theorem witness_NoValueIsNeverRead : cfg.aloaded = 0xFF#8 ∧ 0 < cfg.keylen.toNat ∧ (encS 0x490000 1 []).mode = .enc ∧
    (decS 0x496BE0 7 .s2 [0x48, 0x69, 0xE2]).mode = .dec := by decide

/-- The reset state and the same state with a character filled in at slot 7, before a `CHKA`. -/
theorem witness_NoValueIsNeverRead_filled : (State.resetWith ⟨1, 8⟩).Inv ∧
    (State.resetWith ⟨1, 8⟩).FilledIn { State.resetWith ⟨1, 8⟩ with alpha := (Vector.replicate 8 none).set 7 (some 0x41) } ∧
    ∃ t, exec .chka (State.resetWith ⟨1, 8⟩) = .next t :=
  ⟨inv_reset, ⟨rfl, rfl, fun i v h => by simp [State.alphaEntry, State.resetWith] at h, fun _ _ h => h⟩, _, rfl⟩

theorem witness_ShiftElementwise : 1 ≤ [0xFF#8, 1].length ∧ [0xC3#8, 0xA9][1]? = some 0xA9 ∧
    [0xFF#8, 1][1 % [0xFF#8, 1].length]? = some 1 := by decide

theorem witness_UnshiftInvertsShift : 1 ≤ [0xFF#8, 1].length := by decide

theorem witness_PackerBitFields : [0x05#8, 200][1]? = some 200 ∧ (splitTriplets [true, true, false, true])[1]? = some 4 := by
  decide

theorem witness_UnpackerBitFields : [7#3, 4, 0][1]? = some 4 ∧ 3 * 1 + 2 < 8 * (3 * [7#3, 4, 0].length / 8) ∧
    (splitOctets (List.replicate 9 true))[0]? = some 255 := by decide

theorem witness_TripletsAreIdentityOnBytes : (List.replicate 8 true).length % 8 = 0 ∧ (List.replicate 7 true).length % 8 ≠ 0 := by
  decide

/-- A sequence that ends inside a character, as the third clause asks. -/
theorem witness_Utf8MachineDecidesValidity : u8Run [0xE2, 0x82] ≠ .s0 ∧ u8Run [0xE2, 0x82] ≠ .bad := by decide

theorem witness_BadIsAbsorbing : u8Run [0x80] = .bad ∧ ((decS 0 0 .bad []).offer (encode (.decp 0x30))).u8 = .bad ∧
    (nextOf (step ((decS 0 0 .bad []).offer (encode (.decp 0x30))))).isSome = true ∧
    Input.command (encode (.decp 0x30)) ≠ .command (encode .clr) := by decide

/-- One byte, within the capacity of eight items. -/
theorem witness_EncodeTransactionLaw : cfg.Inv ∧ cfg.Ready ∧ (8 * 3 + 2) / 3 ≤ cfg.params.rbMax ∧
    (nextOf (runInstrs (encodeTransaction [0xF0]) cfg)).map (fun p => p.1.all fun r => !r.flt) = some true :=
  ⟨inv_cfg, ready_cfg, by decide⟩

/-- The source's "740": one byte, valid or not by the key (0xF0 with the key 0). -/
theorem witness_DecodeTransactionLaw : cfg.Inv ∧ cfg.Ready ∧
    [0xF0#8] = unshift (splitOctets (joinTriplets (decodeCharset [0x37, 0x34, 0x30] cfg.alphabet))) cfg.keyBytes ∧
    ¬ u8Run [0xF0] = .s0 ∧ [0xF0#8].length ≤ cfg.params.rbMax ∧
    (nextOf (runInstrs (decodeTransaction [0x37, 0x34, 0x30]) cfg)).map (fun p => p.2.fcause) = some .malformedUtf8 :=
  ⟨inv_cfg, ready_cfg, by decide⟩

/-- The clause for valid bytes: 'A' is "202". -/
theorem witness_DecodeTransactionLaw_valid :
    [0x41#8] = unshift (splitOctets (joinTriplets (decodeCharset [0x32, 0x30, 0x32] cfg.alphabet))) cfg.keyBytes ∧
    utf8Valid [0x41] :=
  ⟨by decide, [[0x41]], fun q h => ⟨[(0x00, 0x7F)], .head _, by simp at h; subst h; decide⟩, rfl⟩

theorem witness_LengthLaws : cfg.Inv ∧ cfg.Ready ∧
    (∃ rs t, runInstrs (encodeTransaction [0xF0]) cfg = .next (rs, t) ∧ ∀ r ∈ rs, r.flt = false) ∧
    (∃ rs t, runInstrs (decodeTransaction [0x32, 0x30, 0x32]) cfg = .next (rs, t) ∧ t.fcause = .noFault) :=
  ⟨inv_cfg, ready_cfg, ⟨[⟨false, 0⟩, ⟨false, 0⟩, ⟨false, 0⟩], _, rfl, by simp⟩, ⟨_, _, rfl, rfl⟩⟩

theorem witness_RoundTrip : cfg.Inv ∧ cfg.Ready ∧ (8 * [0x48#8, 0x69].length + 2) / 3 ≤ cfg.params.rbMax :=
  ⟨inv_cfg, ready_cfg, by decide⟩

theorem witness_NoiseChangesNothing : [encode .dece] ≠ [] ∧
    (∃ r1 t, runWords [encode .decb] cfg = .next (r1, t) ∧ t.mode = .dec ∧ t.fcause = .noFault ∧
      ∀ j : Sym, t.alphaRead j ≠ 0x20) ∧
    ∃ rs u, runWords ([encode .decb] ++ [encode .dece]) cfg = .next (rs, u) :=
  ⟨by decide, ⟨_, _, rfl, rfl, rfl, by decide⟩, _, _, rfl⟩

/-- A digest of two bytes, with its second pair. -/
theorem witness_KeyStringGivesKeyBytes : "a70f".toList.length = 2 * 2 ∧
    (∀ c ∈ "a70f".toList, c ∈ "0123456789abcdef".toList) ∧ "a70f".toList[2 * 1]? = some '0' ∧
    "a70f".toList[2 * 1 + 1]? = some 'f' ∧ "0123456789abcdef".toList[0]? = some '0' ∧
    "0123456789abcdef".toList[15]? = some 'f' := by
  refine ⟨rfl, ?_, rfl, rfl, rfl, rfl⟩
  simp

theorem witness_LoadKeyLeavesTheKey : cfg.Inv ∧ cfg.mode = .idle ∧ cfg.fcause = .noFault ∧ 1 ≤ [0xA7#8].length ∧
    [0xA7#8].length ≤ cfg.params.keyMax := ⟨inv_cfg, by decide⟩

/-- Of each clause: seven characters, eight distinct ones, eight with a repeated one. -/
theorem witness_LoadAlphabetChecks : cfg.Inv ∧ cfg.mode = .idle ∧ cfg.fcause = .noFault ∧
    (List.replicate 7 (0x30 : Chr)).length ≠ 8 ∧ cfg.alphabet.toList.length = 8 ∧ checkCharset cfg.alphabet.toList = true ∧
    checkCharset (List.replicate 8 0x30) = false := ⟨inv_cfg, by decide⟩

theorem witness_TextConversionsAreInverse : serialize [0x20AC] = some [0xE2, 0x82, 0xAC] ∧ utf8Valid [0xE2, 0x82, 0xAC] :=
  ⟨by decide, [[0xE2, 0x82, 0xAC]],
    fun q h => ⟨[(0xE1, 0xEC), (0x80, 0xBF), (0x80, 0xBF)], by decide, by simp at h; subst h; decide⟩, rfl⟩

end Sys2Proof.Tests
end

section
/-! The status word and the reset values: spec/10_state.md R37 and R41. -/

namespace Sys2Proof.Machine

/-- Settles O11. Each `++` of the status word is a shift and an or, so every field stands at its shift of R37 and the two
zero fields of the reserved bits vanish. -/
theorem statusWordFormula : Obligations.StatusWordFormula := by
  unfold Obligations.StatusWordFormula
  intro s
  have reserved (n k : Nat) : BitVec.setWidth 32 0#n <<< k = 0#32 := by simp
  rw [← BitVec.setWidth_eq s.status, State.status]
  iterate 9 rw [BitVec.setWidth_append_eq_shiftLeft_setWidth_or]
  simp only [BitVec.shiftLeft_or_distrib, ← BitVec.shiftLeft_add, Nat.reduceAdd, reserved, BitVec.or_zero]
  simp only [← BitVec.or_assoc, BitVec.or_comm]

namespace State

/-- Every alphabet slot is empty after a restart. -/
@[simp] theorem restart_alphaEntry (s : State) (i : Sym) : s.restart.alphaEntry i = none := by
  simp [alphaEntry]

/-- The first key byte after a restart is the neutral key. -/
@[simp] theorem restart_keyEntry_zero (s : State) : s.restart.keyEntry 0 = some 0 := rfl

/-- No key entry but the first holds a value after a restart. -/
theorem restart_keyEntry_of_pos (s : State) {j : Nat} (hj : 1 ≤ j) : s.restart.keyEntry j = none := by
  obtain ⟨k, rfl⟩ : ∃ k, j = k + 1 := ⟨j - 1, by omega⟩
  simp only [keyEntry, restart_key, List.getElem?_cons_succ, List.getElem?_replicate]
  split <;> rfl

/-- The key array after a restart has `KEYMAX` entries. -/
theorem restart_key_length {s : State} (h : s.params.InRange) : s.restart.key.length = s.params.keyMax := by
  have := h.1
  simp; omega

/-- The status word after a restart: only `KEYLEN` is not zero. -/
@[simp] theorem restart_status (s : State) : s.restart.status = 0x00010000#32 := by
  simp only [status, restart_aloaded, restart_keylen, restart_fcause, restart_rkind, restart_legacy, restart_alphaOk,
    restart_verdict, restart_mode]
  decide

end State

/-- Hardware reset and the word of `SRST` both restart the machine; they differ in the response (R100, R240). -/
theorem step_of_reset {s : State} {rest : List Input}
    (h : s.port = .hardReset :: rest ∨ s.port = .command 0x10000000#32 :: rest) :
    ∃ r, step s = .next { s.restart with port := rest, rsp := r } := by
  rcases h with h | h
  · exact ⟨none, by simp only [step, takeNext, h]; rfl⟩
  · rw [step_of_port_command h, takeCommand_of_ok _ (show decode 0x10000000#32 = .ok .srst by decide)]
    exact ⟨some ⟨false, 0⟩, rfl⟩

/-- Settles O9: either reset restarts the machine, and a restart leaves every element at its value of R41. -/
theorem resetValues : Obligations.ResetValues := by
  unfold Obligations.ResetValues
  intro s rest hp hport
  obtain ⟨r, hstep⟩ := step_of_reset hport
  exact ⟨_, hstep, s.restart_alphaEntry, rfl, rfl, State.restart_key_length hp, s.restart_keyEntry_zero,
    fun j => s.restart_keyEntry_of_pos, rfl, rfl, rfl, rfl, rfl, rfl, rfl, rfl, rfl, rfl, rfl, s.restart_status⟩

end Sys2Proof.Machine
end

section
/-! The invariant of the machine by parts: the key, the alphabet, and what each mode says of the transaction
(spec/10_state.md R40, `State.Elements`). -/

namespace Sys2Proof.Machine

namespace State

/-- The parameters and the key array (R5, R24, R40 items 8 and 9). -/
structure KeyInv (s : State) : Prop where
  params : s.params.InRange
  fits : s.keylen.toNat ≤ s.params.keyMax
  array : s.key.length = s.params.keyMax
  holds : ∀ j < s.keylen.toNat, (s.keyEntry j).isSome = true
  tail : ∀ j, s.keylen.toNat ≤ j → s.keyEntry j = none

/-- The alphabet slots and what `ALPHA_OK` means (R22, R23, R40 item 9). -/
structure AlphaInv (s : State) : Prop where
  holds : ∀ i : Sym, s.aloaded.getLsbD i.toNat = true → (s.alphaEntry i).isSome = true
  tail : ∀ i : Sym, s.aloaded.getLsbD i.toNat = false → s.alphaEntry i = none
  checked : s.alphaOk = true → s.aloaded = 0xFF#8 ∧ s.alphabet.toList.Pairwise (· ≠ ·)

/-- No transaction (R40 item 1). -/
abbrev Clear (s : State) : Prop :=
  s.grp = 0 ∧ s.gcnt = 0 ∧ s.kidx = 0 ∧ s.u8 = .s0 ∧ s.rb = [] ∧ s.rkind = .chars ∧ s.verdict = .none

/-- An open encode transaction (R40 items 2 to 4). -/
structure Encoding (s : State) : Prop where
  alphaOk : s.alphaOk = true
  kidx : s.kidx.toNat < s.keylen.toNat
  verdict : s.verdict = .none
  rkind : s.rkind = .chars
  u8 : s.u8 = .s0
  room : s.rb.length ≤ s.params.rbMax
  items : s.rb.length % 8 = 0
  gcnt : s.gcnt.toNat ≤ 2
  group : s.GroupClearBelow (8 * s.gcnt.toNat)

/-- A decode transaction, whatever stands in its group: what every `EmitByte` keeps (R31, R40 items 2 and 3). -/
structure Emitting (s : State) : Prop where
  alphaOk : s.alphaOk = true
  kidx : s.kidx.toNat < s.keylen.toNat
  verdict : s.verdict = .none
  rkind : s.rkind = .bytes
  room : s.rb.length ≤ s.params.rbMax
  bytes : ∀ v ∈ s.rb, v.toNat < 256

/-- An open decode transaction (R40 items 2, 3 and 5). -/
structure Decoding (s : State) : Prop extends s.Emitting where
  items : s.rb.length % 3 = 0
  group : s.GroupClearBelow (3 * s.gcnt.toNat)

/-- A closed transaction (R40 items 2, 6 and 7; R148). -/
structure Closed (s : State) : Prop where
  alphaOk : s.alphaOk = true
  keylen : 1 ≤ s.keylen.toNat
  grp : s.grp = 0
  gcnt : s.gcnt = 0
  room : s.rb.length ≤ s.params.rbMax
  malformed : s.verdict = .malformed → s.rb = []
  chars : s.rkind = .chars → s.u8 = .s0 ∧ s.verdict = .ok
  bytes : s.rkind = .bytes → (∀ v ∈ s.rb, v.toNat < 256) ∧
    s.verdict = (if s.u8 = .s0 then .ok else if s.legacy = true then .legacy else .malformed)

/-- What the mode says of the transaction. -/
structure PhaseInv (s : State) : Prop where
  clear : s.mode = .idle → s.Clear
  encoding : s.mode = .enc → s.Encoding
  decoding : s.mode = .dec → s.Decoding
  closed : s.mode = .done → s.Closed

namespace Inv

variable {s : State} (h : s.Inv)
include h

theorem keyInv : s.KeyInv :=
  ⟨h.elements.params, h.r40.capacities.1, h.elements.keyArray, h.r40.entriesHaveValues.1, h.elements.keyTail⟩

theorem alphaInv : s.AlphaInv := ⟨h.r40.entriesHaveValues.2, h.elements.alphaTail, h.elements.alphaChecked⟩

theorem clear (hm : s.mode = .idle) : s.Clear := h.r40.idleIsClear hm

theorem encoding (hm : s.mode = .enc) : s.Encoding := by
  obtain ⟨hok, -, -, -⟩ := h.r40.transactionIsConfigured (by simp [hm])
  obtain ⟨hk, hv⟩ := h.r40.openHasIndex (.inl hm)
  obtain ⟨hn, hu, hr, hi, hg⟩ := h.r40.encGroup hm
  exact ⟨hok, hk, hv, hr, hu, h.r40.capacities.2, hi, hn, hg⟩

theorem decoding (hm : s.mode = .dec) : s.Decoding := by
  obtain ⟨hok, -, -, -⟩ := h.r40.transactionIsConfigured (by simp [hm])
  obtain ⟨hk, hv⟩ := h.r40.openHasIndex (.inr hm)
  obtain ⟨-, hr, hi, hg⟩ := h.r40.decGroup hm
  exact ⟨⟨hok, hk, hv, hr, h.r40.capacities.2, h.elements.bytesAreBytes hr⟩, hi, hg⟩

theorem closed (hm : s.mode = .done) : s.Closed := by
  obtain ⟨hok, -, hl, -⟩ := h.r40.transactionIsConfigured (by simp [hm])
  obtain ⟨hg, hn, -⟩ := h.r40.doneIsClosed hm
  exact ⟨hok, hl, hg, hn, h.r40.capacities.2, fun hv => (h.r40.malformedIffCause.2 hv).1,
    fun hr => ⟨h.elements.charsMeansS0 hr, h.elements.doneChars hm hr⟩,
    fun hr => ⟨h.elements.bytesAreBytes hr, h.elements.doneBytes hm hr⟩⟩

theorem phaseInv : s.PhaseInv := ⟨h.clear, h.encoding, h.decoding, h.closed⟩

theorem malformed_iff : s.verdict = .malformed ↔ s.fcause = .malformedUtf8 := h.r40.malformedIffCause.1

end Inv

namespace PhaseInv

variable {s : State} (h : s.PhaseInv)
include h

/-- Outside `IDLE` the alphabet is checked and the key is not empty (R40 item 2). -/
theorem configured (hm : s.mode ≠ .idle) : s.alphaOk = true ∧ 1 ≤ s.keylen.toNat := by
  cases hmode : s.mode with
  | idle => exact absurd hmode hm
  | enc => exact ⟨(h.encoding hmode).alphaOk, Nat.one_le_of_lt (h.encoding hmode).kidx⟩
  | dec => exact ⟨(h.decoding hmode).alphaOk, Nat.one_le_of_lt (h.decoding hmode).kidx⟩
  | done => exact ⟨(h.closed hmode).alphaOk, (h.closed hmode).keylen⟩

/-- The result buffer never holds more than `RBMAX` items (R40 item 8). -/
theorem room : s.rb.length ≤ s.params.rbMax := by
  cases hmode : s.mode with
  | idle => obtain ⟨-, -, -, -, hrb, -, -⟩ := h.clear hmode; simp [hrb]
  | enc => exact (h.encoding hmode).room
  | dec => exact (h.decoding hmode).room
  | done => exact (h.closed hmode).room

/-- `U8` is `S0` unless the items are bytes (R30). -/
theorem charsMeansS0 (hr : s.rkind = .chars) : s.u8 = .s0 := by
  cases hmode : s.mode with
  | idle => obtain ⟨-, -, -, hu, -, -, -⟩ := h.clear hmode; exact hu
  | enc => exact (h.encoding hmode).u8
  | dec => simp [(h.decoding hmode).rkind] at hr
  | done => exact ((h.closed hmode).chars hr).1

/-- The items of a decode are zero-extended bytes (R31). -/
theorem bytesAreBytes (hr : s.rkind = .bytes) : ∀ v ∈ s.rb, v.toNat < 256 := by
  cases hmode : s.mode with
  | idle => obtain ⟨-, -, -, -, hrb, -, -⟩ := h.clear hmode; simp [hrb]
  | enc => simp [(h.encoding hmode).rkind] at hr
  | dec => exact (h.decoding hmode).bytes
  | done => exact ((h.closed hmode).bytes hr).1

/-- `MALFORMED` is the verdict of a closed transaction, the result emptied (R40 item 7). -/
theorem malformed (hv : s.verdict = .malformed) : s.rb = [] ∧ s.mode = .done := by
  cases hmode : s.mode with
  | idle => obtain ⟨-, -, -, -, -, -, hv'⟩ := h.clear hmode; simp [hv'] at hv
  | enc => simp [(h.encoding hmode).verdict] at hv
  | dec => simp [(h.decoding hmode).verdict] at hv
  | done => exact ⟨(h.closed hmode).malformed hv, rfl⟩

end PhaseInv

/-- A closed transaction has a verdict (R40 item 6). -/
theorem Closed.verdict_ne_none {s : State} (h : s.Closed) : s.verdict ≠ .none := by
  cases hr : s.rkind with
  | chars => simp [(h.chars hr).2]
  | bytes => rw [(h.bytes hr).2]; split_ifs <;> simp

/-- The invariant is its parts: the key, the alphabet, the phase, and R40 item 7's tie of verdict and cause. -/
theorem inv_iff {s : State} :
    s.Inv ↔ s.KeyInv ∧ s.AlphaInv ∧ s.PhaseInv ∧ (s.verdict = .malformed ↔ s.fcause = .malformedUtf8) := by
  constructor
  · exact fun h => ⟨h.keyInv, h.alphaInv, h.phaseInv, h.malformed_iff⟩
  · rintro ⟨hk, ha, hp, hv⟩
    refine ⟨⟨hp.clear, ?_, ?_, ?_, ?_, ?_, ⟨hv, hp.malformed⟩, ⟨hk.fits, hp.room⟩, ⟨hk.holds, ha.holds⟩⟩,
      ⟨hk.params, hk.array, hk.tail, ha.tail, ha.checked, hp.charsMeansS0, hp.bytesAreBytes,
        fun hm hr => ((hp.closed hm).chars hr).2, fun hm hr => ((hp.closed hm).bytes hr).2⟩⟩
    · intro hm
      obtain ⟨hok, hl⟩ := hp.configured hm
      obtain ⟨hall, hdist⟩ := ha.checked hok
      exact ⟨hok, hall, hl, hdist⟩
    · rintro (hm | hm)
      · exact ⟨(hp.encoding hm).kidx, (hp.encoding hm).verdict⟩
      · exact ⟨(hp.decoding hm).kidx, (hp.decoding hm).verdict⟩
    · intro hm
      have he := hp.encoding hm
      exact ⟨he.gcnt, he.u8, he.rkind, he.items, he.group⟩
    · intro hm
      have hd := hp.decoding hm
      exact ⟨Nat.le_of_lt_succ s.gcnt.isLt, hd.rkind, hd.items, hd.group⟩
    · intro hm
      exact ⟨(hp.closed hm).grp, (hp.closed hm).gcnt, (hp.closed hm).verdict_ne_none⟩

/-- The key part depends on the parameters and the key only. -/
theorem KeyInv.congr {s t : State} (h : s.KeyInv) (hp : t.params = s.params) (hk : t.key = s.key)
    (hn : t.keylen = s.keylen) : t.KeyInv := by
  have hentry : t.keyEntry = s.keyEntry := by funext j; simp only [keyEntry, hk]
  constructor <;> simp only [hp, hk, hn, hentry]
  exacts [h.params, h.fits, h.array, h.holds, h.tail]

/-- The alphabet part depends on the alphabet only. -/
theorem AlphaInv.congr {s t : State} (h : s.AlphaInv) (ha : t.alpha = s.alpha) (hl : t.aloaded = s.aloaded)
    (ho : t.alphaOk = s.alphaOk) : t.AlphaInv := by
  have hentry : t.alphaEntry = s.alphaEntry := by funext i; simp only [alphaEntry, ha]
  have halpha : t.alphabet = s.alphabet := by simp only [alphabet, alphaRead, ha]
  constructor <;> simp only [hl, ho, hentry, halpha]
  exacts [h.holds, h.tail, h.checked]

section intro
variable {s : State} (hk : s.KeyInv) (ha : s.AlphaInv)
include hk ha

theorem inv_of_clear (hm : s.mode = .idle) (hc : s.Clear) (hf : s.fcause ≠ .malformedUtf8) : s.Inv := by
  obtain ⟨-, -, -, -, -, -, hv⟩ := id hc
  exact inv_iff.2 ⟨hk, ha, ⟨fun _ => hc, by simp [hm], by simp [hm], by simp [hm]⟩, by simp [hv, hf]⟩

theorem inv_of_encoding (hm : s.mode = .enc) (he : s.Encoding) (hf : s.fcause ≠ .malformedUtf8) : s.Inv :=
  inv_iff.2 ⟨hk, ha, ⟨by simp [hm], fun _ => he, by simp [hm], by simp [hm]⟩, by simp [he.verdict, hf]⟩

theorem inv_of_decoding (hm : s.mode = .dec) (hd : s.Decoding) (hf : s.fcause ≠ .malformedUtf8) : s.Inv :=
  inv_iff.2 ⟨hk, ha, ⟨by simp [hm], by simp [hm], fun _ => hd, by simp [hm]⟩, by simp [hd.verdict, hf]⟩

theorem inv_of_closed (hm : s.mode = .done) (hc : s.Closed)
    (hv : s.verdict = .malformed ↔ s.fcause = .malformedUtf8) : s.Inv :=
  inv_iff.2 ⟨hk, ha, ⟨by simp [hm], by simp [hm], by simp [hm], fun _ => hc⟩, hv⟩

end intro

end State

end Sys2Proof.Machine
end

section
/-! The invariant through the shared operations: the response, the fault, the restart, the byte emission. -/

namespace Sys2Proof.Machine

namespace State

/-- The invariant says nothing of the port or the response, and of the cause only R40 item 7. -/
theorem Inv.with_fcause {s : State} (h : s.Inv) {c : FCause} (hc : s.verdict = .malformed ↔ c = .malformedUtf8)
    (p : List Input) (r : Option Response) : ({ s with fcause := c, port := p, rsp := r } : State).Inv := by
  obtain ⟨⟨r1, r2, r3, r4, r5, r6, ⟨-, r7⟩, r8, r9⟩, ⟨e1, e2, e3, e4, e5, e6, e7, e8, e9⟩⟩ := h
  exact ⟨⟨r1, r2, r3, r4, r5, r6, ⟨hc, r7⟩, r8, r9⟩, ⟨e1, e2, e3, e4, e5, e6, e7, e8, e9⟩⟩

theorem Inv.with_port {s : State} (h : s.Inv) (p : List Input) : ({ s with port := p } : State).Inv :=
  h.with_fcause h.malformed_iff p s.rsp

theorem Inv.answer {s : State} (h : s.Inv) (f : Bool) (d : Word) : (s.answer f d).Inv :=
  h.with_fcause h.malformed_iff s.port (some ⟨f, d⟩)

theorem Inv.ok {s : State} (h : s.Inv) : s.ok.Inv := h.answer false 0

theorem Inv.refuse {s : State} (h : s.Inv) : s.refuse.Inv := h.answer true 0

/-- Taking a fault of a cause other than `MalformedUtf8` keeps the invariant: without a fault the verdict is not
`MALFORMED`, and a cause that stands already stays. -/
theorem Inv.raise {s : State} (h : s.Inv) {c : FCause} (hc : c ≠ .malformedUtf8) : (s.raise c).Inv := by
  by_cases hf : s.fcause = .noFault
  · rw [raise_of_noFault c hf]
    exact h.with_fcause (by simp [h.malformed_iff, hf, hc]) s.port (some ⟨true, 0⟩)
  · rw [raise_of_faulted c hf]
    exact h.refuse

/-- A restart meets the invariant, for every value of the parameters in range (R41 against R40). -/
theorem inv_restart {s : State} (h : s.params.InRange) : s.restart.Inv := by
  have hkey : s.restart.KeyInv := by
    refine ⟨h, h.1, restart_key_length h, fun j hj => ?_, fun j => s.restart_keyEntry_of_pos⟩
    obtain rfl : j = 0 := by simpa using hj
    rw [restart_keyEntry_zero, Option.isSome_some]
  have halpha : s.restart.AlphaInv := ⟨by simp, by simp, by simp⟩
  exact inv_of_clear hkey halpha rfl ⟨rfl, rfl, rfl, rfl, rfl, rfl, rfl⟩ (by simp)

/-- The reset state meets the invariant. -/
theorem inv_resetWith {p : Params} (h : p.InRange) : (resetWith p).Inv := inv_restart (s := resetWith p) h

/-- What `CLR` clears is the transaction and the fault; the configuration keeps its invariant (R101). -/
theorem Inv.clearTransaction {s : State} (h : s.Inv) : s.clearTransaction.Inv :=
  inv_of_clear (h.keyInv.congr rfl rfl rfl) (h.alphaInv.congr rfl rfl rfl) rfl ⟨rfl, rfl, rfl, rfl, rfl, rfl, rfl⟩
    (by simp)

/-- A command that writes only configuration in `IDLE` keeps the invariant if it keeps that of the key and the alphabet. -/
theorem Inv.reconfigure {s t : State} (h : s.Inv) (hm : s.mode = .idle) (hk : t.KeyInv) (ha : t.AlphaInv)
    (ht : t = { s with
      alpha := t.alpha, aloaded := t.aloaded, alphaOk := t.alphaOk, key := t.key, keylen := t.keylen, legacy := t.legacy,
      rsp := t.rsp }) : t.Inv := by
  have hc := h.clear hm
  have hf : s.fcause ≠ .malformedUtf8 := by
    obtain ⟨-, -, -, -, -, -, hv⟩ := hc
    simp [← h.malformed_iff, hv]
  refine inv_of_clear hk ha ?_ ?_ ?_ <;> rw [ht] <;> assumption

end State

/-- The next key index is below a key length that is not zero (R29). -/
theorem nextKidx_lt {kidx keylen : BitVec 8} (h : kidx.toNat < keylen.toNat) :
    (nextKidx kidx keylen).toNat < keylen.toNat := by
  have hne : keylen ≠ 0 := by rintro rfl; simp at h
  have hlt : (kidx.toNat + 1) % keylen.toNat < keylen.toNat := Nat.mod_lt _ (by omega)
  rw [nextKidx, if_neg hne, BitVec.toNat_ofNat, Nat.mod_eq_of_lt (by omega)]
  exact hlt

/-- A zero-extended byte is below 256 (R31). -/
theorem zext21_toNat_lt (p : Byte) : (zext21 p).toNat < 256 := by
  have := p.isLt
  simp [zext21]; omega

namespace State

/-- `EmitByte` with room for one item keeps a decode transaction (R145). -/
theorem Emitting.emitByte {s : State} (h : s.Emitting) (hroom : s.rb.length + 1 ≤ s.params.rbMax) (x : Byte) :
    (s.emitByte x).Emitting where
  alphaOk := h.alphaOk
  kidx := nextKidx_lt h.kidx
  verdict := h.verdict
  rkind := h.rkind
  room := by simpa using hroom
  bytes := by
    simp only [emitByte_rb, List.mem_append, List.mem_singleton]
    rintro v (hv | rfl)
    · exact h.bytes v hv
    · exact zext21_toNat_lt _

/-- Several `EmitByte` with room for all of them keep a decode transaction. -/
theorem Emitting.emitBytes {s : State} (h : s.Emitting) (g : Group) (n : Nat)
    (hroom : s.rb.length + n ≤ s.params.rbMax) : (s.emitBytes g n).Emitting := by
  induction n with
  | zero => exact h
  | succ n ih =>
    rw [emitBytes_succ]
    refine (ih (by omega)).emitByte ?_ _
    simp only [emitBytes_frame g n s]
    omega

theorem KeyInv.emitBytes {s : State} (h : s.KeyInv) (g : Group) (n : Nat) : (s.emitBytes g n).KeyInv := by
  apply h.congr <;> simp only [emitBytes_frame g n s]

theorem AlphaInv.emitBytes {s : State} (h : s.AlphaInv) (g : Group) (n : Nat) : (s.emitBytes g n).AlphaInv := by
  apply h.congr <;> simp only [emitBytes_frame g n s]

/-- Room that the check does not deny, as an inequality (R222). -/
theorem room_of_hasRoom_ne_false {s : State} {n : Nat} (h : ¬ s.hasRoom n = false) :
    s.rb.length + n ≤ s.params.rbMax :=
  hasRoom_eq_true.1 (Bool.eq_true_of_not_eq_false h)

/-- An empty group is clear below every bit. -/
theorem groupClearBelow_of_grp_eq_zero {s : State} (h : s.grp = 0) (n : Nat) : s.GroupClearBelow n := by
  intro k _
  simp [h]

/-- Putting a value that is zero below bit `23 - m` into a group that is clear below its top `n` bits, `n ≤ m`, leaves it
clear below its top `m` bits. -/
theorem GroupClearBelow.or {s : State} {n m : Nat} (h : s.GroupClearBelow n) (hnm : n ≤ m) {v : Group}
    (hv : ∀ k < 24 - m, v.getLsbD k = false) : ∀ k < 24 - m, (s.grp ||| v).getLsbD k = false := by
  intro k hk
  simp [h k (by omega), hv k hk]

end State

/-- Counting one more byte or symbol does not wrap below 7. -/
theorem gcnt_succ_toNat {n : BitVec 3} (h : n.toNat ≤ 6) : (n + 1).toNat = n.toNat + 1 := by
  simp [BitVec.toNat_add]; omega

/-- A shifted byte is put at the top `8 * (n + 1)` bits of the group (R126). -/
theorem place_getLsbD_of_lt {n : BitVec 3} (hn : n.toNat ≤ 1) (x : Byte) {k : Nat} (hk : k < 24 - 8 * (n.toNat + 1)) :
    (place x n).getLsbD k = false := by
  have : k < 16 - 8 * n.toNat := by omega
  rw [place, if_pos (by omega)]
  simp [this]

/-- A symbol is put at the top `3 * (n + 1)` bits of the group (R147). -/
theorem placeSym_getLsbD_of_lt (i : Sym) (n : BitVec 3) {k : Nat} (hk : k < 24 - 3 * (n.toNat + 1)) :
    (placeSym i n).getLsbD k = false := by
  have : k < 21 - 3 * n.toNat := by omega
  simp [placeSym, this]

end Sys2Proof.Machine
end

section
/-! The invariant through each command's pseudocode, in the one mode it is legal in. -/

namespace Sys2Proof.Machine

/-- Loading a slot sets its bit and no other (R102). -/
theorem setLoaded_getLsbD (m : BitVec 8) (idx i : Sym) :
    (setLoaded m idx).getLsbD i.toNat = (m.getLsbD i.toNat || decide (i = idx)) := by
  have hbit : ∀ i idx : Sym, (1#8 <<< idx.toNat).getLsbD i.toNat = decide (i = idx) := by decide
  rw [setLoaded, BitVec.getLsbD_or, hbit]

/-- `LDA` gives its slot the character and leaves the others (R102). -/
theorem ldaBody_alphaEntry (idx : Sym) (ch : Chr) (s : State) (i : Sym) :
    (ldaBody idx ch s).alphaEntry i = if i = idx then some ch else s.alphaEntry i := by
  simp [State.alphaEntry, ldaBody, Vector.getElem_set, BitVec.toNat_inj, eq_comm]

/-- `checkCharset` of an alphabet says that its characters are pairwise distinct (R103). -/
theorem pairwise_ne_of_checkCharset {c : List Chr} (h : checkCharset c ≠ false) : c.Pairwise (· ≠ ·) := by
  have : checkCharset c = true := by simpa using h
  exact (of_decide_eq_true this).2

/-- `KPUSH` with room appends the byte to the key (R106). -/
theorem kpushBody_of_lt {s : State} (b : Byte) (h : s.keylen.toNat < s.params.keyMax) :
    kpushBody b s = ({ s with key := s.key.set s.keylen.toNat (some b), keylen := s.keylen + 1 } : State).ok :=
  if_neg (Nat.ne_of_lt h)

/-- `KPUSH` with room gives the next key entry the byte and leaves the others (R106). -/
theorem kpushBody_keyEntry {s : State} (hk : s.KeyInv) (h : s.keylen.toNat < s.params.keyMax) (b : Byte) (j : Nat) :
    (kpushBody b s).keyEntry j = if j = s.keylen.toNat then some b else s.keyEntry j := by
  have hlt : s.keylen.toNat < s.key.length := hk.array ▸ h
  simp only [kpushBody_of_lt b h, State.keyEntry, State.ok_key, List.getElem?_set]
  by_cases hj : j = s.keylen.toNat
  · simp [hj, hlt]
  · simp [hj, Ne.symm hj]

/-- `KPUSH` with room counts the byte: `KEYLEN` does not wrap, since `KEYMAX` is at most 255 (R5, R106). -/
theorem kpushBody_keylen {s : State} (hk : s.KeyInv) (h : s.keylen.toNat < s.params.keyMax) (b : Byte) :
    (kpushBody b s).keylen.toNat = s.keylen.toNat + 1 := by
  obtain ⟨-, hmax, -, -⟩ := hk.params
  have : (s.keylen + 1).toNat = s.keylen.toNat + 1 := by simp [BitVec.toNat_add]; omega
  rw [kpushBody_of_lt b h]
  exact this

namespace State

section idle

variable {s : State} (h : s.Inv) (hm : s.mode = .idle)
include h hm

theorem Inv.ldaBody (idx : Sym) (ch : Chr) : (Machine.ldaBody idx ch s).Inv := by
  have hloaded (i : Sym) : (Machine.ldaBody idx ch s).aloaded.getLsbD i.toNat =
      (s.aloaded.getLsbD i.toNat || decide (i = idx)) := setLoaded_getLsbD s.aloaded idx i
  refine h.reconfigure hm (h.keyInv.congr rfl rfl rfl) ⟨fun i hi => ?_, fun i hi => ?_, ?_⟩ rfl
  · rw [hloaded, Bool.or_eq_true, decide_eq_true_iff] at hi
    rw [ldaBody_alphaEntry]
    split_ifs with hidx
    · rfl
    · exact h.alphaInv.holds i (hi.resolve_right hidx)
  · rw [hloaded, Bool.or_eq_false_iff, decide_eq_false_iff_not] at hi
    rw [ldaBody_alphaEntry, if_neg hi.2]
    exact h.alphaInv.tail i hi.1
  · intro hok
    simp [Machine.ldaBody] at hok

theorem Inv.chkaBody : (Machine.chkaBody s).Inv := by
  have unchecked : ({ s with alphaOk := false } : State).Inv :=
    h.reconfigure hm (h.keyInv.congr rfl rfl rfl) ⟨h.alphaInv.holds, h.alphaInv.tail, by simp⟩ rfl
  unfold Machine.chkaBody
  split
  · exact unchecked.raise (by simp)
  split
  · exact unchecked.raise (by simp)
  next hall hdist =>
    have checked : ({ s with alphaOk := true } : State).AlphaInv :=
      ⟨h.alphaInv.holds, h.alphaInv.tail, fun _ => ⟨by simpa using hall, pairwise_ne_of_checkCharset hdist⟩⟩
    exact h.reconfigure hm (h.keyInv.congr rfl rfl rfl) (checked.congr rfl rfl rfl) rfl

theorem Inv.kclrBody : (Machine.kclrBody s).Inv := by
  have hentry (j : Nat) : (Machine.kclrBody s).keyEntry j = none := by
    simp only [keyEntry, Machine.kclrBody, ok_key, List.getElem?_replicate]
    split <;> rfl
  have hkey : (Machine.kclrBody s).KeyInv :=
    ⟨h.keyInv.params, Nat.zero_le _, by simpa [Machine.kclrBody] using h.keyInv.array,
      fun j hj => by simp [Machine.kclrBody] at hj, fun j _ => hentry j⟩
  exact h.reconfigure hm hkey (h.alphaInv.congr rfl rfl rfl) rfl

theorem Inv.kpushBody (b : Byte) : (Machine.kpushBody b s).Inv := by
  have hk := h.keyInv
  by_cases hfull : s.keylen.toNat = s.params.keyMax
  · rw [Machine.kpushBody, if_pos hfull]
    exact h.raise (by simp)
  have hlt : s.keylen.toNat < s.params.keyMax := Nat.lt_of_le_of_ne hk.fits hfull
  have hform := kpushBody_of_lt b hlt
  have hlen := kpushBody_keylen hk hlt b
  have hkey : (Machine.kpushBody b s).KeyInv := by
    refine ⟨by rw [hform]; exact hk.params, ?_, ?_, fun j hj => ?_, fun j hj => ?_⟩
    · rw [hlen, hform]; exact hlt
    · rw [hform]; simpa using hk.array
    · rw [kpushBody_keyEntry hk hlt]
      split_ifs with hj'
      · rfl
      · exact hk.holds j (by omega)
    · rw [kpushBody_keyEntry hk hlt, if_neg (by omega)]
      exact hk.tail j (by omega)
  have halpha : (Machine.kpushBody b s).AlphaInv := by
    rw [hform]; exact h.alphaInv.congr rfl rfl rfl
  exact h.reconfigure hm hkey halpha (by rw [hform]; rfl)

theorem Inv.setlBody (v : BitVec 1) : (Machine.setlBody v s).Inv :=
  h.reconfigure hm (h.keyInv.congr rfl rfl rfl) (h.alphaInv.congr rfl rfl rfl) rfl

end idle

/-- A transaction opens only with a checked alphabet and a key: the invariant is kept if the mode entered keeps it then. -/
theorem Inv.beginTransaction {s : State} (h : s.Inv) {m : Mode} {k : RKind}
    (hopen : s.alphaOk = true → 0 < s.keylen.toNat → ({ s with mode := m, rkind := k } : State).Inv) :
    (Machine.beginTransaction m k s).Inv := by
  unfold Machine.beginTransaction
  split
  · exact h.raise (by simp)
  split
  · exact h.raise (by simp)
  next hok hkey =>
    exact (hopen (by simpa using hok) (Nat.pos_of_ne_zero fun h0 => hkey (BitVec.eq_of_toNat_eq h0))).ok

/-- `ENCB` opens an encode transaction (R125). -/
theorem Inv.encbBody {s : State} (h : s.Inv) (hm : s.mode = .idle) (hf : s.fcause = .noFault) :
    (Machine.beginTransaction .enc .chars s).Inv := by
  refine h.beginTransaction fun hok hlen => ?_
  obtain ⟨hgrp, hgcnt, hkidx, hu, hrb, -, hv⟩ := h.clear hm
  refine inv_of_encoding (h.keyInv.congr rfl rfl rfl) (h.alphaInv.congr rfl rfl rfl) rfl ?_ (by simp [hf])
  exact ⟨hok, by simpa [hkidx] using hlen, hv, rfl, hu, by simp [hrb], by simp [hrb], by simp [hgcnt],
    groupClearBelow_of_grp_eq_zero hgrp _⟩

/-- `DECB` opens a decode transaction (R146). -/
theorem Inv.decbBody {s : State} (h : s.Inv) (hm : s.mode = .idle) (hf : s.fcause = .noFault) :
    (Machine.beginTransaction .dec .bytes s).Inv := by
  refine h.beginTransaction fun hok hlen => ?_
  obtain ⟨hgrp, hgcnt, hkidx, hu, hrb, -, hv⟩ := h.clear hm
  refine inv_of_decoding (h.keyInv.congr rfl rfl rfl) (h.alphaInv.congr rfl rfl rfl) rfl ?_ (by simp [hf])
  exact ⟨⟨hok, by simpa [hkidx] using hlen, hv, rfl, by simp [hrb], by simp [hrb]⟩, by simp [hrb],
    groupClearBelow_of_grp_eq_zero hgrp _⟩

/-- `ENCP` counts a byte into the group, or empties the group into eight items that have room (R126). -/
theorem Inv.encpBody {s : State} (h : s.Inv) (hm : s.mode = .enc) (hf : s.fcause = .noFault) (b : Byte) :
    (Machine.encpBody b s).Inv := by
  have he := h.encoding hm
  have hgcnt := he.gcnt
  unfold Machine.encpBody
  split
  next =>
    split
    next => exact h.raise (by simp)
    next hroom =>
      have hroom : s.rb.length + 8 ≤ s.params.rbMax := room_of_hasRoom_ne_false hroom
      refine inv_of_encoding (h.keyInv.congr rfl rfl rfl) (h.alphaInv.congr rfl rfl rfl) hm ?_ (by simp [hf])
      exact ⟨he.alphaOk, nextKidx_lt he.kidx, he.verdict, he.rkind, he.u8, by simpa using hroom,
        by simp [he.items], by simp, groupClearBelow_of_grp_eq_zero rfl _⟩
  next hne =>
    have hlt : s.gcnt.toNat ≤ 1 := by
      have : s.gcnt.toNat ≠ 2 := fun h2 => hne (BitVec.eq_of_toNat_eq h2)
      omega
    have hsucc := gcnt_succ_toNat (n := s.gcnt) (by omega)
    refine inv_of_encoding (h.keyInv.congr rfl rfl rfl) (h.alphaInv.congr rfl rfl rfl) hm ?_ (by simp [hf])
    refine ⟨he.alphaOk, nextKidx_lt he.kidx, he.verdict, he.rkind, he.u8, he.room, he.items, ?_, ?_⟩
    · show (s.gcnt + 1).toNat ≤ 2
      omega
    · show ∀ k < 24 - 8 * (s.gcnt + 1).toNat, (encGroup b s).getLsbD k = false
      rw [hsucc]
      exact GroupClearBelow.or he.group (by omega) fun k hk => place_getLsbD_of_lt hlt _ hk

/-- `ENCE` closes an encode transaction with the verdict `OK` (R127). -/
theorem Inv.enceBody {s : State} (h : s.Inv) (hm : s.mode = .enc) (hf : s.fcause = .noFault) :
    (Machine.enceBody s).Inv := by
  have he := h.encoding hm
  unfold Machine.enceBody
  split
  next => exact h.raise (by simp)
  next hroom =>
    have hroom : s.rb.length + flushSymbols s.gcnt ≤ s.params.rbMax := room_of_hasRoom_ne_false hroom
    refine inv_of_closed (h.keyInv.congr rfl rfl rfl) (h.alphaInv.congr rfl rfl rfl) rfl ?_ (by simp [hf])
    exact ⟨he.alphaOk, Nat.one_le_of_lt he.kidx, rfl, rfl, by simpa using hroom, by simp, fun _ => ⟨he.u8, rfl⟩,
      by simp [he.rkind]⟩

/-- A decode transaction goes on with an empty group after whole groups of three items (R147). -/
theorem Emitting.inv_setGroup_zero {s : State} (h : s.Emitting) (hk : s.KeyInv) (ha : s.AlphaInv) (hm : s.mode = .dec)
    (hf : s.fcause = .noFault) (hitems : s.rb.length % 3 = 0) : (s.setGroup 0 0).ok.Inv :=
  inv_of_decoding (hk.congr rfl rfl rfl) (ha.congr rfl rfl rfl) hm
    ⟨⟨h.alphaOk, h.kidx, h.verdict, h.rkind, h.room, h.bytes⟩, hitems, groupClearBelow_of_grp_eq_zero rfl _⟩
    (by simp [hf])

/-- `DECP` on a character of the alphabet counts a symbol into the group, or empties the group into three items that have
room (R147). -/
theorem Inv.decpFound {s : State} (h : s.Inv) (hm : s.mode = .dec) (hf : s.fcause = .noFault) (i : Sym) :
    (Machine.decpFound i s).Inv := by
  have hd := h.decoding hm
  unfold Machine.decpFound
  split
  next =>
    split
    next => exact h.raise (by simp)
    next hroom =>
      have hemit := hd.toEmitting.emitBytes (decGroup i s) 3 (room_of_hasRoom_ne_false hroom)
      exact hemit.inv_setGroup_zero (h.keyInv.emitBytes _ _) (h.alphaInv.emitBytes _ _) (by simp [emitBytes_frame, hm])
        (by simp [emitBytes_frame, hf]) (by simp [emitBytes_frame, hd.items])
  next hne =>
    have hlt : s.gcnt.toNat ≤ 6 := by
      have : s.gcnt.toNat ≠ 7 := fun h7 => hne (BitVec.eq_of_toNat_eq h7)
      omega
    have hsucc := gcnt_succ_toNat (n := s.gcnt) (by omega)
    refine inv_of_decoding (h.keyInv.congr rfl rfl rfl) (h.alphaInv.congr rfl rfl rfl) hm
      ⟨⟨hd.alphaOk, hd.kidx, hd.verdict, hd.rkind, hd.room, hd.bytes⟩, hd.items, ?_⟩ (by simp [hf])
    show ∀ k < 24 - 3 * (s.gcnt + 1).toNat, (decGroup i s).getLsbD k = false
    rw [hsucc]
    exact GroupClearBelow.or hd.group (by omega) fun k hk => placeSym_getLsbD_of_lt i s.gcnt hk

/-- `DECP` skips a character that is not in the alphabet (R147). -/
theorem Inv.decpBody {s : State} (h : s.Inv) (hm : s.mode = .dec) (hf : s.fcause = .noFault) (ch : Chr) :
    (Machine.decpBody ch s).Inv := by
  unfold Machine.decpBody
  split
  · exact h.ok
  · exact h.decpFound hm hf _

/-- The verdict closes a decode transaction whose group is emptied (R148). -/
theorem Emitting.inv_giveVerdict {s : State} (h : s.Emitting) (hk : s.KeyInv) (ha : s.AlphaInv) (hgrp : s.grp = 0)
    (hgcnt : s.gcnt = 0) (hf : s.fcause = .noFault) : (giveVerdict { s with mode := .done }).Inv := by
  have hlen : 1 ≤ s.keylen.toNat := Nat.one_le_of_lt h.kidx
  by_cases hu : s.u8 = .s0
  · rw [giveVerdict, if_pos hu]
    refine inv_of_closed (hk.congr rfl rfl rfl) (ha.congr rfl rfl rfl) rfl ?_ (by simp [hf])
    exact ⟨h.alphaOk, hlen, hgrp, hgcnt, h.room, by simp, by simp [h.rkind], fun _ => ⟨h.bytes, by simp [hu]⟩⟩
  by_cases hl : s.legacy = true
  · rw [giveVerdict, if_neg hu, if_pos hl]
    refine inv_of_closed (hk.congr rfl rfl rfl) (ha.congr rfl rfl rfl) rfl ?_ (by simp [hf])
    exact ⟨h.alphaOk, hlen, hgrp, hgcnt, h.room, by simp, by simp [h.rkind], fun _ => ⟨h.bytes, by simp [hu, hl]⟩⟩
  · rw [giveVerdict, if_neg hu, if_neg hl]
    refine inv_of_closed (hk.congr rfl rfl rfl) (ha.congr rfl rfl rfl) rfl ?_ (by simp [hf])
    exact ⟨h.alphaOk, hlen, hgrp, hgcnt, by simp, fun _ => rfl, by simp [h.rkind],
      fun _ => ⟨by simp, by simp [hu, hl]⟩⟩

/-- `DECE` flushes the whole bytes of the group and closes the decode transaction (R148). -/
theorem Inv.deceBody {s : State} (h : s.Inv) (hm : s.mode = .dec) (hf : s.fcause = .noFault) :
    (Machine.deceBody s).Inv := by
  unfold Machine.deceBody
  split
  next => exact h.raise (by simp)
  next hroom =>
    have hemit := (h.decoding hm).toEmitting.emitBytes s.grp (flushBytes s.gcnt) (room_of_hasRoom_ne_false hroom)
    have hflushed : ((s.emitBytes s.grp (flushBytes s.gcnt)).setGroup 0 0).Emitting :=
      ⟨hemit.alphaOk, hemit.kidx, hemit.verdict, hemit.rkind, hemit.room, hemit.bytes⟩
    exact hflushed.inv_giveVerdict ((h.keyInv.emitBytes _ _).congr rfl rfl rfl)
      ((h.alphaInv.emitBytes _ _).congr rfl rfl rfl) rfl rfl (by simp [emitBytes_frame, hf])

/-- `POP` leaves a closed transaction closed, with one item fewer (R182). -/
theorem Inv.popBody {s : State} (h : s.Inv) (hm : s.mode = .done) : (Machine.popBody s).Inv := by
  have hc := h.closed hm
  unfold Machine.popBody
  split
  next => exact h.raise (by simp)
  next v rest hrb =>
    have hroom : rest.length ≤ s.params.rbMax := by
      have := hc.room
      simp only [hrb, List.length_cons] at this
      omega
    refine inv_of_closed (h.keyInv.congr rfl rfl rfl) (h.alphaInv.congr rfl rfl rfl) hm ?_ h.malformed_iff
    refine ⟨hc.alphaOk, hc.keylen, hc.grp, hc.gcnt, hroom, fun hv => ?_, hc.chars, fun hr => ⟨fun x hx => ?_, ?_⟩⟩
    · have := hc.malformed hv
      simp [hrb] at this
    · exact (hc.bytes hr).1 x (by simp [hrb, show x ∈ rest from hx])
    · exact (hc.bytes hr).2

end State

end Sys2Proof.Machine
end

section
/-! The invariant along a run from reset (spec/10_state.md R40). -/

namespace Sys2Proof.Machine

/-- Every command's pseudocode keeps the invariant: a gated one in its mode and without a fault. -/
theorem body_keeps_inv {i : Instr} {s : State} (h : s.Inv)
    (hgate : ∀ m, gate i = some m → s.fcause = .noFault ∧ s.mode = m) : (body i s).Inv := by
  cases i with
  | srst => exact (State.inv_restart h.elements.params).ok
  | clr => exact h.clearTransaction.ok
  | rdst | rdn => exact h.answer false _
  | lda idx ch => exact h.ldaBody (hgate _ rfl).2 idx ch
  | chka => exact h.chkaBody (hgate _ rfl).2
  | kclr => exact h.kclrBody (hgate _ rfl).2
  | kpush b => exact h.kpushBody (hgate _ rfl).2 b
  | setl v => exact h.setlBody (hgate _ rfl).2 v
  | encb => exact h.encbBody (hgate _ rfl).2 (hgate _ rfl).1
  | encp b => exact h.encpBody (hgate _ rfl).2 (hgate _ rfl).1 b
  | ence => exact h.enceBody (hgate _ rfl).2 (hgate _ rfl).1
  | decb => exact h.decbBody (hgate _ rfl).2 (hgate _ rfl).1
  | decp ch => exact h.decpBody (hgate _ rfl).2 (hgate _ rfl).1 ch
  | dece => exact h.deceBody (hgate _ rfl).2 (hgate _ rfl).1
  | pop => exact h.popBody (hgate _ rfl).2

/-- Every command keeps the invariant. -/
theorem exec_keeps_inv {i : Instr} {s t : State} (h : s.Inv) (he : exec i s = .next t) : t.Inv := by
  rcases exec_cases he with ⟨hg, rfl⟩ | ⟨_, _, _, rfl⟩ | ⟨_, _, _, _, rfl⟩ | ⟨m, hg, hf, hm, rfl⟩
  · exact body_keeps_inv h (by simp [hg])
  · exact h.refuse
  · exact h.raise (by simp)
  · exact body_keeps_inv h fun m' hm' => ⟨hf, by simpa [hg, hm] using hm'⟩

/-- Every command word, legal or not, keeps the invariant. -/
theorem takeCommand_keeps_inv {w : Word} {s t : State} (h : s.Inv) (he : takeCommand w s = .next t) : t.Inv := by
  cases hw : decode w with
  | ok i => exact exec_keeps_inv h (takeCommand_of_ok s hw ▸ he)
  | error e =>
    obtain rfl : s.raise .illegalCommand = t := by simpa [takeCommand_of_error s hw] using he
    exact h.raise (by simp)

/-- Every step keeps the invariant, whatever input waits. -/
theorem step_keeps_inv {s t : State} (h : s.Inv) (hs : step s = .next t) : t.Inv := by
  cases hport : s.port with
  | nil =>
    obtain rfl : s = t := by simpa [step, takeNext, hport] using hs
    exact h
  | cons x rest =>
    cases x with
    | command w => exact takeCommand_keeps_inv (h.with_port rest) (step_of_port_command hport ▸ hs)
    | hardReset =>
      obtain ⟨r, hr⟩ := step_of_reset (.inl hport)
      obtain rfl : { s.restart with port := rest, rsp := r } = t := by simpa [hr] using hs
      exact (State.inv_restart h.elements.params).with_fcause (State.inv_restart h.elements.params).malformed_iff rest r

/-- A run of one word and more is a command taken, then the run of the others. -/
theorem exists_of_runWords_cons {w : Word} {ws : List Word} {s t : State} {rs : List Response}
    (h : runWords (w :: ws) s = .next (rs, t)) :
    ∃ u rs', takeCommand w s = .next u ∧ runWords ws u = .next (rs', t) ∧ rs = u.rsp.toList ++ rs' := by
  simp only [runWords, step_offer] at h
  split at h
  next u hu =>
    cases hrun : runWords ws u with
    | next p =>
      obtain ⟨rs', t'⟩ := p
      simp only [hrun, afterFirst, Host.Outcome.next.injEq, Prod.mk.injEq] at h
      obtain ⟨rfl, rfl⟩ := h
      exact ⟨u, rs', hu, hrun, rfl⟩
    | fault f => exact nomatch f
    | refused r => simp [hrun, afterFirst] at h
  all_goals cases h

/-- What holds at the start and is kept by every command word holds at the end of every run. -/
theorem runWords_induction {P : State → Prop} (hstep : ∀ w s t, P s → takeCommand w s = .next t → P t)
    {ws : List Word} {s t : State} {rs : List Response} (h : P s) (hrun : runWords ws s = .next (rs, t)) : P t := by
  induction ws generalizing s rs with
  | nil =>
    simp only [runWords_nil, Host.Outcome.next.injEq, Prod.mk.injEq] at hrun
    exact hrun.2 ▸ h
  | cons w ws ih =>
    obtain ⟨u, rs', hu, hrest, -⟩ := exists_of_runWords_cons hrun
    exact ih (hstep w s u h hu) hrest

/-- Settles O42: the reset state meets the invariant and every command word keeps it, by induction on the words. -/
theorem reachableStatesMeetR40 : Obligations.ReachableStatesMeetR40 := by
  unfold Obligations.ReachableStatesMeetR40
  intro p ws rs t hp hrun
  have hinv : t.Inv := runWords_induction (fun _ _ _ => takeCommand_keeps_inv) (State.inv_resetWith hp) hrun
  exact hinv.r40

end Sys2Proof.Machine
end

section
/-! The decoder and the encoder: the fields of an encoded command, what `OP` makes of a word, and that the two are inverse
(spec/30_encoding.md R81 to R88). -/

namespace Sys2Proof

namespace Word

/-- The parts of three bit strings put together. -/
theorem extract_append_append {u v w : Nat} (x : BitVec u) (y : BitVec v) (z : BitVec w) :
    (x ++ y ++ z).extractLsb' (w + v) u = x ∧ (x ++ y ++ z).extractLsb' w v = y ∧
    (x ++ y ++ z).extractLsb' 0 w = z := by
  simp [BitVec.extractLsb'_append_eq_of_le, BitVec.extractLsb'_append_eq_of_add_le]

/-- A bit string is its three parts put together. -/
theorem append_append_extract {u v w : Nat} (x : BitVec (u + v + w)) :
    x.extractLsb' (w + v) u ++ x.extractLsb' w v ++ x.extractLsb' 0 w = x := by
  rw [BitVec.extractLsb'_append_extractLsb'_eq_extractLsb' rfl,
    BitVec.extractLsb'_append_extractLsb'_eq_extractLsb' (Nat.zero_add w).symm]
  exact BitVec.extractLsb'_eq_self

/-- A word is the fields that its operand form reads, put together (R82, R85). -/
theorem append_belowOp (w : Word) : op w ++ belowOp w = w := by
  unfold op belowOp
  rw [BitVec.extractLsb'_append_extractLsb'_eq_extractLsb' (by decide)]
  exact BitVec.extractLsb'_eq_self

theorem append_fields (w : Word) : op w ++ z1 w ++ idx w ++ z2 w ++ ch w = w := by
  unfold op z1 idx z2 ch
  iterate 4 rw [BitVec.extractLsb'_append_extractLsb'_eq_extractLsb' (by decide)]
  exact BitVec.extractLsb'_eq_self

theorem append_byte (w : Word) : op w ++ aboveByte w ++ byte w = w :=
  append_append_extract (u := 4) (v := 20) (w := 8) w

theorem append_flag (w : Word) : op w ++ aboveFlag w ++ flag w = w :=
  append_append_extract (u := 4) (v := 27) (w := 1) w

theorem append_chr (w : Word) : op w ++ aboveChr w ++ ch w = w :=
  append_append_extract (u := 4) (v := 7) (w := 21) w

/-- In an encoded command the operands stand in their fields and the reserved bits are zero (R82, R84). -/
@[simp] theorem fields_encode_lda (i : Sym) (c : Chr) :
    op (encode (.lda i c)) = 0x3#4 ∧ z1 (encode (.lda i c)) = 0 ∧ idx (encode (.lda i c)) = i ∧
    z2 (encode (.lda i c)) = 0 ∧ ch (encode (.lda i c)) = c := by
  unfold op z1 idx z2 ch encode
  refine ⟨?_, ?_, ?_, ?_, ?_⟩
  · iterate 4 rw [BitVec.extractLsb'_append_eq_of_le (by decide)]
    exact BitVec.extractLsb'_eq_self
  · iterate 3 rw [BitVec.extractLsb'_append_eq_of_le (by decide)]
    exact (BitVec.extractLsb'_append_eq_of_add_le (by decide)).trans BitVec.extractLsb'_eq_self
  · iterate 2 rw [BitVec.extractLsb'_append_eq_of_le (by decide)]
    exact (BitVec.extractLsb'_append_eq_of_add_le (by decide)).trans BitVec.extractLsb'_eq_self
  · rw [BitVec.extractLsb'_append_eq_of_le (by decide)]
    exact (BitVec.extractLsb'_append_eq_of_add_le (by decide)).trans BitVec.extractLsb'_eq_self
  · exact (BitVec.extractLsb'_append_eq_of_add_le (by decide)).trans BitVec.extractLsb'_eq_self

@[simp] theorem fields_encode_kpush (b : Byte) :
    op (encode (.kpush b)) = 0x6#4 ∧ aboveByte (encode (.kpush b)) = 0 ∧ byte (encode (.kpush b)) = b :=
  extract_append_append _ _ b

@[simp] theorem fields_encode_encp (b : Byte) :
    op (encode (.encp b)) = 0x9#4 ∧ aboveByte (encode (.encp b)) = 0 ∧ byte (encode (.encp b)) = b :=
  extract_append_append _ _ b

@[simp] theorem fields_encode_setl (v : BitVec 1) :
    op (encode (.setl v)) = 0x7#4 ∧ aboveFlag (encode (.setl v)) = 0 ∧ flag (encode (.setl v)) = v :=
  extract_append_append _ _ v

@[simp] theorem fields_encode_decp (c : Chr) :
    op (encode (.decp c)) = 0xC#4 ∧ aboveChr (encode (.decp c)) = 0 ∧ ch (encode (.decp c)) = c :=
  extract_append_append _ _ c

end Word

/-- Decoding an encoded command gives it back (R88). -/
@[simp] theorem decode_encode (i : Instr) : decode (encode i) = .ok i := by
  cases i with
  | lda i c => simp [decode, decodeLda]
  | kpush b | encp b => simp [decode, decodeByte]
  | setl v => simp [decode, decodeSetl]
  | decp c => simp [decode, decodeDecp]
  | srst | clr | chka | kclr | encb | ence | decb | dece | rdst | rdn | pop => rfl

/-- The commands without operands that have an `OP` to themselves, with that `OP` (R83, R85 (b)). -/
def plainOps : List (BitVec 4 × Instr) :=
  [(0x1, .srst), (0x2, .clr), (0x4, .chka), (0x5, .kclr), (0x8, .encb), (0xA, .ence), (0xB, .decb), (0xD, .dece),
    (0xF, .pop)]

theorem encode_of_mem_plainOps : ∀ p ∈ plainOps, encode p.2 = p.1 ++ 0#28 := by decide

/-- A decoder's check of the must-be-zero bits decides between a command and a rejection. -/
theorem ite_ok_error_eq_ok {P : Prop} [Decidable P] {e : Illegal} {i j : Instr} :
    (if P then Except.ok i else .error e) = .ok j ↔ P ∧ i = j := by
  split <;> simp [*]

theorem exists_ite_ok_error_eq_error {P : Prop} [Decidable P] {e : Illegal} {i : Instr} :
    (∃ e', (if P then Except.ok i else .error e) = Except.error e') ↔ ¬ P := by
  split <;> simp [*]

section op
variable {w : Word}

theorem decode_of_op_zero (h : Word.op w = 0x0#4) : decode w = .error .opZero := by simp [decode, h]

theorem decode_of_op_plain {i : Instr} (h : (Word.op w, i) ∈ plainOps) : decode w = decodeNone w i := by
  simp only [plainOps, List.mem_cons, Prod.mk.injEq, List.not_mem_nil, or_false] at h
  rcases h with ⟨h, rfl⟩ | ⟨h, rfl⟩ | ⟨h, rfl⟩ | ⟨h, rfl⟩ | ⟨h, rfl⟩ | ⟨h, rfl⟩ | ⟨h, rfl⟩ | ⟨h, rfl⟩ | ⟨h, rfl⟩ <;>
    simp [decode, h]

theorem decode_of_op_lda (h : Word.op w = 0x3#4) : decode w = decodeLda w := by simp [decode, h]

theorem decode_of_op_kpush (h : Word.op w = 0x6#4) : decode w = decodeByte w .kpush := by simp [decode, h]

theorem decode_of_op_setl (h : Word.op w = 0x7#4) : decode w = decodeSetl w := by simp [decode, h]

theorem decode_of_op_encp (h : Word.op w = 0x9#4) : decode w = decodeByte w .encp := by simp [decode, h]

theorem decode_of_op_decp (h : Word.op w = 0xC#4) : decode w = decodeDecp w := by simp [decode, h]

theorem decode_of_op_read (h : Word.op w = 0xE#4) : decode w = decodeRead w := by simp [decode, h]

end op

/-- What `OP` makes of a word, said once: it is illegal (R85 (a)) or read in one of the operand forms of R82. -/
theorem decode_cases (w : Word) :
    (Word.op w = 0x0#4 ∧ decode w = .error .opZero) ∨
    (∃ i, (Word.op w, i) ∈ plainOps ∧ decode w = decodeNone w i) ∨
    (Word.op w = 0x3#4 ∧ decode w = decodeLda w) ∨
    (Word.op w = 0x6#4 ∧ decode w = decodeByte w .kpush) ∨
    (Word.op w = 0x9#4 ∧ decode w = decodeByte w .encp) ∨
    (Word.op w = 0x7#4 ∧ decode w = decodeSetl w) ∨
    (Word.op w = 0xC#4 ∧ decode w = decodeDecp w) ∨
    (Word.op w = 0xE#4 ∧ decode w = decodeRead w) := by
  have hop : ∀ o : BitVec 4,
      o = 0x0 ∨ o ∈ plainOps.map Prod.fst ∨ o = 0x3 ∨ o = 0x6 ∨ o = 0x9 ∨ o = 0x7 ∨ o = 0xC ∨ o = 0xE := by decide
  rcases hop (Word.op w) with h | h | h | h | h | h | h | h
  · exact .inl ⟨h, decode_of_op_zero h⟩
  · obtain ⟨⟨o, i⟩, hi, ho⟩ := List.mem_map.1 h
    obtain rfl : o = Word.op w := ho
    exact .inr (.inl ⟨i, hi, decode_of_op_plain hi⟩)
  all_goals
    simp [h, decode_of_op_lda, decode_of_op_kpush, decode_of_op_encp, decode_of_op_setl, decode_of_op_decp,
      decode_of_op_read]

/-- Encoding a decoded word gives it back: its must-be-zero bits are the zeros that the encoder writes (R88). -/
theorem encode_of_decode {w : Word} {i : Instr} (h : decode w = .ok i) : encode i = w := by
  rcases decode_cases w with
    ⟨_, hd⟩ | ⟨j, hj, hd⟩ | ⟨hop, hd⟩ | ⟨hop, hd⟩ | ⟨hop, hd⟩ | ⟨hop, hd⟩ | ⟨hop, hd⟩ | ⟨hop, hd⟩ <;>
    rw [hd] at h
  · cases h
  · obtain ⟨hz, rfl⟩ := ite_ok_error_eq_ok.1 h
    calc encode j = Word.op w ++ Word.belowOp w := by rw [hz]; exact encode_of_mem_plainOps _ hj
      _ = w := w.append_belowOp
  · obtain ⟨⟨hz1, hz2⟩, rfl⟩ := ite_ok_error_eq_ok.1 h
    calc encode (.lda (Word.idx w) (Word.ch w))
        = Word.op w ++ Word.z1 w ++ Word.idx w ++ Word.z2 w ++ Word.ch w := by rw [hop, hz1, hz2]; rfl
      _ = w := w.append_fields
  · obtain ⟨hz, rfl⟩ := ite_ok_error_eq_ok.1 h
    calc encode (.kpush (Word.byte w)) = Word.op w ++ Word.aboveByte w ++ Word.byte w := by rw [hop, hz]; rfl
      _ = w := w.append_byte
  · obtain ⟨hz, rfl⟩ := ite_ok_error_eq_ok.1 h
    calc encode (.encp (Word.byte w)) = Word.op w ++ Word.aboveByte w ++ Word.byte w := by rw [hop, hz]; rfl
      _ = w := w.append_byte
  · obtain ⟨hz, rfl⟩ := ite_ok_error_eq_ok.1 h
    calc encode (.setl (Word.flag w)) = Word.op w ++ Word.aboveFlag w ++ Word.flag w := by rw [hop, hz]; rfl
      _ = w := w.append_flag
  · obtain ⟨hz, rfl⟩ := ite_ok_error_eq_ok.1 h
    calc encode (.decp (Word.ch w)) = Word.op w ++ Word.aboveChr w ++ Word.ch w := by rw [hop, hz]; rfl
      _ = w := w.append_chr
  · have hw := w.append_belowOp
    rw [hop] at hw
    unfold decodeRead at h
    split at h
    case isTrue hz => cases h; rw [← hw, hz]; rfl
    case isFalse =>
      obtain ⟨hz, rfl⟩ := ite_ok_error_eq_ok.1 h
      rw [← hw, hz]; rfl

/-- Settles O1: the encoder writes each operand into the field the decoder reads it from, and zeros where the decoder asks
for them. -/
theorem decodeInvertsEncode : Obligations.DecodeInvertsEncode := by
  unfold Obligations.DecodeInvertsEncode
  exact ⟨decode_encode, fun _ _ => encode_of_decode⟩

end Sys2Proof
end

section
/-! The opcode map and the illegal words (spec/30_encoding.md R82, R83, R85). -/

namespace Sys2Proof

open Machine

/-- The encoding of every command selects the row of its mnemonic. -/
theorem encode_selects (i : Instr) : ∃ r ∈ opcodeMap, r.mnemonic = i.mnemonic ∧ r.Selects (encode i) := by
  cases i with
  | srst => exact Laws.SelectsRow.srst
  | clr => exact Laws.SelectsRow.clr
  | lda i c => exact Laws.SelectsRow.lda i c
  | chka => exact Laws.SelectsRow.chka
  | kclr => exact Laws.SelectsRow.kclr
  | kpush b => exact Laws.SelectsRow.kpush b
  | setl v => exact Laws.SelectsRow.setl v
  | encb => exact Laws.SelectsRow.encb
  | encp b => exact Laws.SelectsRow.encp b
  | ence => exact Laws.SelectsRow.ence
  | decb => exact Laws.SelectsRow.decb
  | decp c => exact Laws.SelectsRow.decp c
  | dece => exact Laws.SelectsRow.dece
  | rdst => exact Laws.SelectsRow.rdst
  | rdn => exact Laws.SelectsRow.rdn
  | pop => exact Laws.SelectsRow.pop

/-- Two rows that fix a bit differently, under both masks, select no word in common. -/
theorem not_selects_both {a b : OpcodeRow} (h : a.mtch &&& b.mask ≠ b.mtch &&& a.mask) (w : Word) :
    ¬ (a.Selects w ∧ b.Selects w) := by
  rintro ⟨ha, hb⟩
  apply h
  rw [← ha, ← hb, BitVec.and_assoc, BitVec.and_assoc, BitVec.and_comm a.mask]

/-- Where a row's mask is all ones, a word that selects it has the bits of its `match`. -/
theorem extractLsb'_of_selects {r : OpcodeRow} {w : Word} (h : r.Selects w) {k n : Nat}
    (hmask : r.mask.extractLsb' k n = BitVec.allOnes n) : w.extractLsb' k n = r.mtch.extractLsb' k n := by
  rw [← show w &&& r.mask = r.mtch from h, BitVec.extractLsb'_and, hmask, BitVec.and_allOnes]

/-- A row fixes every bit of a word, or is that of one of the five commands with operands. -/
theorem mask_or_operand_row : ∀ r ∈ opcodeMap, r.mask = BitVec.allOnes 32 ∨
    r = ⟨"LDA", 0x30000000#32, 0xF8E00000#32⟩ ∨ r = ⟨"KPUSH", 0x60000000#32, 0xFFFFFF00#32⟩ ∨
    r = ⟨"SETL", 0x70000000#32, 0xFFFFFFFE#32⟩ ∨ r = ⟨"ENCP", 0x90000000#32, 0xFFFFFF00#32⟩ ∨
    r = ⟨"DECP", 0xC0000000#32, 0xFFE00000#32⟩ := by decide

/-- The `match` of a row is itself a command word of the row's command. -/
theorem decode_mtch : ∀ r ∈ opcodeMap, (decode r.mtch).toOption.map Instr.mnemonic = some r.mnemonic := by decide

/-- A word that selects a row decodes to the command of that row's mnemonic. -/
theorem exists_decode_of_selects {r : OpcodeRow} {w : Word} (hr : r ∈ opcodeMap) (h : r.Selects w) :
    ∃ i, decode w = .ok i ∧ i.mnemonic = r.mnemonic := by
  rcases mask_or_operand_row r hr with hmask | rfl | rfl | rfl | rfl | rfl
  · obtain rfl : w = r.mtch := by rw [← show w &&& r.mask = r.mtch from h, hmask, BitVec.and_allOnes]
    have hmn := decode_mtch r hr
    cases hd : decode r.mtch with
    | ok i => exact ⟨i, rfl, by simpa [hd, Except.toOption] using hmn⟩
    | error e => simp [hd, Except.toOption] at hmn
  · have hop : Word.op w = 0x3#4 := extractLsb'_of_selects h (by decide)
    have hz : Word.z1 w = 0 ∧ Word.z2 w = 0 :=
      ⟨extractLsb'_of_selects h (by decide), extractLsb'_of_selects h (by decide)⟩
    exact ⟨_, (decode_of_op_lda hop).trans (if_pos hz), rfl⟩
  · have hop : Word.op w = 0x6#4 := extractLsb'_of_selects h (by decide)
    have hz : Word.aboveByte w = 0 := extractLsb'_of_selects h (by decide)
    exact ⟨_, (decode_of_op_kpush hop).trans (if_pos hz), rfl⟩
  · have hop : Word.op w = 0x7#4 := extractLsb'_of_selects h (by decide)
    have hz : Word.aboveFlag w = 0 := extractLsb'_of_selects h (by decide)
    exact ⟨_, (decode_of_op_setl hop).trans (if_pos hz), rfl⟩
  · have hop : Word.op w = 0x9#4 := extractLsb'_of_selects h (by decide)
    have hz : Word.aboveByte w = 0 := extractLsb'_of_selects h (by decide)
    exact ⟨_, (decode_of_op_encp hop).trans (if_pos hz), rfl⟩
  · have hop : Word.op w = 0xC#4 := extractLsb'_of_selects h (by decide)
    have hz : Word.aboveChr w = 0 := extractLsb'_of_selects h (by decide)
    exact ⟨_, (decode_of_op_decp hop).trans (if_pos hz), rfl⟩

/-- The rows of the opcode map are disjoint. -/
theorem opcodeMap_disjoint : opcodeMap.Pairwise fun a b => ∀ w : Word, ¬ (a.Selects w ∧ b.Selects w) := by
  have hmaps : opcodeMap.Pairwise fun a b => a.mtch &&& b.mask ≠ b.mtch &&& a.mask := by decide
  exact hmaps.imp not_selects_both

/-- Settles O2: a legal word is the encoding of its command, which selects the row of the mnemonic and has the operands in
their fields. -/
theorem opcodeMapSelects : Obligations.OpcodeMapSelects := by
  unfold Obligations.OpcodeMapSelects
  refine ⟨opcodeMap_disjoint, fun w i h => ?_, fun w r => exists_decode_of_selects, fun w idx ch h => ?_, fun w b h => ?_,
    fun w v h => ?_, fun w b h => ?_, fun w ch h => ?_⟩ <;> obtain rfl := encode_of_decode h
  · exact encode_selects i
  · obtain ⟨-, -, hidx, -, hch⟩ := Word.fields_encode_lda idx ch
    exact ⟨hidx.symm, hch.symm⟩
  · exact (Word.fields_encode_kpush b).2.2.symm
  · exact (Word.fields_encode_setl v).2.2.symm
  · exact (Word.fields_encode_encp b).2.2.symm
  · exact (Word.fields_encode_decp ch).2.2.symm

/-- The field `Z1` is bit 27 (R81). -/
theorem Word.z1_eq_zero {w : Word} : Word.z1 w = 0 ↔ w.getLsbD 27 = false := by
  have hbit : ∀ b : BitVec 1, b = 0 ↔ b.getLsbD 0 = false := by decide
  rw [hbit, Word.z1, BitVec.getLsbD_extractLsb']
  simp

/-- The read form rejects every selector but the two of `RDST` and `RDN`. -/
theorem exists_decodeRead_eq_error (w : Word) :
    (∃ e, decodeRead w = .error e) ↔ Word.belowOp w ≠ 0x0000000#28 ∧ Word.belowOp w ≠ 0x1000000#28 := by
  unfold decodeRead
  split <;> simp [exists_ite_ok_error_eq_error, *]

/-- Settles O3: each operand form rejects exactly the words of its clause, and a rejected word is only a fault raised. -/
theorem illegalWordsAreExactly : Obligations.IllegalWordsAreExactly := by
  unfold Obligations.IllegalWordsAreExactly
  refine ⟨fun w => ?_, fun s w rest e hport he => (step_of_port_command hport).trans (takeCommand_of_error _ he)⟩
  rw [← Word.op, ← Word.belowOp, ← Word.z2, ← Word.aboveByte, ← Word.aboveFlag, ← Word.aboveChr]
  rcases decode_cases w with
    ⟨hop, hd⟩ | ⟨i, hi, hd⟩ | ⟨hop, hd⟩ | ⟨hop, hd⟩ | ⟨hop, hd⟩ | ⟨hop, hd⟩ | ⟨hop, hd⟩ | ⟨hop, hd⟩ <;>
    rw [hd]
  · simp [hop]
  · have hplain : ∀ p ∈ plainOps, p.1 ∈ [0x1#4, 0x2#4, 0x4#4, 0x5#4, 0x8#4, 0xA#4, 0xB#4, 0xD#4, 0xF#4] ∧
        p.1 ∉ [0x0#4, 0x3#4, 0x6#4, 0x9#4, 0x7#4, 0xC#4, 0xE#4] := by decide
    obtain ⟨hmem, hnot⟩ := hplain _ hi
    simp only [List.mem_cons, List.not_mem_nil, or_false, not_or] at hnot
    simp only [decodeNone, exists_ite_ok_error_eq_error, hmem, hnot, true_and, false_and, or_false, false_or, ne_eq]
  · simp only [decodeLda, exists_ite_ok_error_eq_error, Word.z1_eq_zero]
    simp [hop, imp_iff_not_or]
  · simp [hop, decodeByte, exists_ite_ok_error_eq_error]
  · simp [hop, decodeByte, exists_ite_ok_error_eq_error]
  · simp [hop, decodeSetl, exists_ite_ok_error_eq_error]
  · simp [hop, decodeDecp, exists_ite_ok_error_eq_error]
  · simp [hop, exists_decodeRead_eq_error]

end Sys2Proof
end

section
/-! What a command leaves behind: its outcome in the mode it is legal in, the response, and the mode machine
(spec/30_encoding.md R89, R92). -/

namespace Sys2Proof.Machine

/-- The data a command that succeeds answers with (R89); none where `POP` finds the result buffer empty. -/
def answerData : Instr → State → Option Word
  | .rdst, s => some s.status
  | .rdn, s => some s.rcount
  | .pop, s => s.rb.head?.map zext32
  | _, _ => some 0

/-- Only three commands return data (R89). -/
theorem answerData_of_ne {i : Instr} (hrdst : i ≠ .rdst) (hrdn : i ≠ .rdn) (hpop : i ≠ .pop) (s : State) :
    answerData i s = some 0 := by
  unfold answerData
  split
  · exact absurd rfl hrdst
  · exact absurd rfl hrdn
  · exact absurd rfl hpop
  · rfl

/-- A command raised one of its own causes (R211): the response is that of a fault (R89). Of the two faults that write
other state (R212), that of `DECE` has moved on to the next mode. -/
structure Fails (i : Instr) (s t : State) : Prop where
  cause : t.fcause ∈ ownCauses i
  rsp : t.rsp = some ⟨true, 0⟩
  mode : t.mode = s.mode ∨ t.mode = nextMode i s.mode

/-- A command succeeded: no fault is recorded that was not there, the response has its data, `MODE` is the next one of the
table (R89, R92). -/
structure Succeeds (i : Instr) (s t : State) : Prop where
  fcause : s.fcause = .noFault → t.fcause = .noFault
  rsp : ∃ d, answerData i s = some d ∧ t.rsp = some ⟨false, d⟩
  mode : t.mode = nextMode i s.mode

namespace State
variable {i : Instr} {s u : State}

theorem raise_fails {c : FCause} (hu : u.fcause = .noFault) (hc : c ∈ ownCauses i)
    (hm : u.mode = s.mode ∨ u.mode = nextMode i s.mode) : Fails i s (u.raise c) where
  cause := by simpa [hu] using hc
  rsp := rfl
  mode := hm

theorem ok_succeeds (hd : answerData i s = some 0) (hu : s.fcause = .noFault → u.fcause = .noFault)
    (hm : u.mode = nextMode i s.mode) : Succeeds i s u.ok :=
  ⟨hu, ⟨0, hd, rfl⟩, hm⟩

@[simp] theorem emitBytes_mode (g : Group) (n : Nat) (s : State) : (s.emitBytes g n).mode = s.mode := by
  simp [emitBytes_frame]

@[simp] theorem emitBytes_fcause (g : Group) (n : Nat) (s : State) : (s.emitBytes g n).fcause = s.fcause := by
  simp [emitBytes_frame]

end State

/-- The verdict is taken with the transaction already closed (R148). -/
theorem giveVerdict_outcome {s u : State} (hu : u.fcause = .noFault) (hm : u.mode = .done) :
    Fails .dece s (giveVerdict u) ∨ Succeeds .dece s (giveVerdict u) := by
  unfold giveVerdict
  split
  · exact .inr (State.ok_succeeds rfl (fun _ => hu) hm)
  split
  · exact .inr (State.ok_succeeds rfl (fun _ => hu) hm)
  · exact .inl (State.raise_fails hu (by decide) (.inr hm))

section outcome
variable {s : State} (hf : s.fcause = .noFault)
include hf

theorem chkaBody_outcome (hm : s.mode = .idle) : Fails .chka s (chkaBody s) ∨ Succeeds .chka s (chkaBody s) := by
  unfold chkaBody
  split
  · exact .inl (State.raise_fails hf (by decide) (.inl rfl))
  split
  · exact .inl (State.raise_fails hf (by decide) (.inl rfl))
  · exact .inr (State.ok_succeeds rfl id hm)

theorem kpushBody_outcome (hm : s.mode = .idle) (b : Byte) :
    Fails (.kpush b) s (kpushBody b s) ∨ Succeeds (.kpush b) s (kpushBody b s) := by
  unfold kpushBody
  split
  · exact .inl (State.raise_fails hf (List.mem_singleton.2 rfl) (.inl rfl))
  · exact .inr (State.ok_succeeds rfl id hm)

/-- `ENCB` and `DECB` differ in the mode they enter and the kind of items (R125, R146). -/
theorem beginTransaction_outcome {i : Instr} {m : Mode} (k : RKind) (hi : i = .encb ∧ m = .enc ∨ i = .decb ∧ m = .dec) :
    Fails i s (beginTransaction m k s) ∨ Succeeds i s (beginTransaction m k s) := by
  have hcauses : ownCauses i = [.alphabetNotReady, .keyEmpty] := by rcases hi with ⟨rfl, -⟩ | ⟨rfl, -⟩ <;> rfl
  unfold beginTransaction
  split
  · exact .inl (State.raise_fails hf (by simp [hcauses]) (.inl rfl))
  split
  · exact .inl (State.raise_fails hf (by simp [hcauses]) (.inl rfl))
  · rcases hi with ⟨rfl, rfl⟩ | ⟨rfl, rfl⟩ <;> exact .inr (State.ok_succeeds rfl id rfl)

theorem encpBody_outcome (hm : s.mode = .enc) (b : Byte) :
    Fails (.encp b) s (encpBody b s) ∨ Succeeds (.encp b) s (encpBody b s) := by
  unfold encpBody
  split
  · split
    · exact .inl (State.raise_fails hf (List.mem_singleton.2 rfl) (.inl rfl))
    · exact .inr (State.ok_succeeds rfl id hm)
  · exact .inr (State.ok_succeeds rfl id hm)

theorem enceBody_outcome : Fails .ence s (enceBody s) ∨ Succeeds .ence s (enceBody s) := by
  unfold enceBody
  split
  · exact .inl (State.raise_fails hf (by decide) (.inl rfl))
  · exact .inr (State.ok_succeeds rfl id rfl)

theorem decpBody_outcome (hm : s.mode = .dec) (ch : Chr) :
    Fails (.decp ch) s (decpBody ch s) ∨ Succeeds (.decp ch) s (decpBody ch s) := by
  unfold decpBody
  split
  · exact .inr (State.ok_succeeds rfl id hm)
  unfold decpFound
  split
  · split
    · exact .inl (State.raise_fails hf (List.mem_singleton.2 rfl) (.inl rfl))
    · exact .inr (State.ok_succeeds rfl (by simp) (by simpa [nextMode] using hm))
  · exact .inr (State.ok_succeeds rfl id hm)

theorem deceBody_outcome : Fails .dece s (deceBody s) ∨ Succeeds .dece s (deceBody s) := by
  unfold deceBody
  split
  · exact .inl (State.raise_fails hf (by decide) (.inl rfl))
  · exact giveVerdict_outcome (by simpa using hf) rfl

theorem popBody_outcome (hm : s.mode = .done) : Fails .pop s (popBody s) ∨ Succeeds .pop s (popBody s) := by
  unfold popBody
  split
  · exact .inl (State.raise_fails hf (by decide) (.inl rfl))
  next v rest hrb =>
    exact .inr ⟨id, ⟨zext32 v, by simp [answerData, hrb], rfl⟩, hm⟩

/-- A gated command in its mode raises one of its own causes or succeeds. -/
theorem body_outcome {i : Instr} (hg : gate i = some s.mode) : Fails i s (body i s) ∨ Succeeds i s (body i s) := by
  have hmode {m : Mode} (h : gate i = some m) : s.mode = m := by simpa [hg] using h
  cases i with
  | srst | clr | rdst | rdn => cases hg
  | lda idx ch => exact .inr (State.ok_succeeds rfl id (hmode rfl))
  | chka => exact chkaBody_outcome hf (hmode rfl)
  | kclr => exact .inr (State.ok_succeeds rfl id (hmode rfl))
  | kpush b => exact kpushBody_outcome hf (hmode rfl) b
  | setl v => exact .inr (State.ok_succeeds rfl id (hmode rfl))
  | encb => exact beginTransaction_outcome hf _ (.inl ⟨rfl, rfl⟩)
  | encp b => exact encpBody_outcome hf (hmode rfl) b
  | ence => exact enceBody_outcome hf
  | decb => exact beginTransaction_outcome hf _ (.inr ⟨rfl, rfl⟩)
  | decp ch => exact decpBody_outcome hf (hmode rfl) ch
  | dece => exact deceBody_outcome hf
  | pop => exact popBody_outcome hf (hmode rfl)

end outcome

/-- A command without a gate succeeds in every state. -/
theorem body_succeeds {i : Instr} (h : gate i = none) (s : State) : Succeeds i s (body i s) := by
  rcases (gate_eq_none_iff i).1 h with rfl | rfl | rfl | rfl
  · exact State.ok_succeeds rfl (fun _ => rfl) rfl
  · exact State.ok_succeeds rfl (fun _ => rfl) rfl
  · exact ⟨id, ⟨_, rfl, rfl⟩, rfl⟩
  · exact ⟨id, ⟨_, rfl, rfl⟩, rfl⟩

/-- The legality table by the gate (R92). -/
theorem legalIn_eq_true_iff (i : Instr) (m : Mode) : legalIn i m = true ↔ gate i = none ∨ gate i = some m := by
  cases i with
  | srst | clr | rdst | rdn => simp [legalIn, gate]
  | lda | chka | kclr | kpush | setl | encb | encp | ence | decb | decp | dece | pop =>
    simp only [legalIn, gate, beq_iff_eq, reduceCtorEq, Option.some.injEq, false_or]
    exact eq_comm

theorem alwaysLegal_eq_true_iff (i : Instr) : alwaysLegal i = true ↔ gate i = none := by
  cases i <;> simp [alwaysLegal, gate]

/-- What executing a command comes to: refused, out of its mode, a cause of its own, or success (R224). -/
theorem exec_outcome {i : Instr} {s t : State} (h : exec i s = .next t) :
    (alwaysLegal i = false ∧ s.fcause ≠ .noFault ∧ t = s.refuse) ∨
    (alwaysLegal i = false ∧ s.fcause = .noFault ∧ legalIn i s.mode = false ∧ t = s.raise .seqError) ∨
    (alwaysLegal i = false ∧ s.fcause = .noFault ∧ legalIn i s.mode = true ∧ Fails i s t) ∨
    ((alwaysLegal i = true ∨ s.fcause = .noFault) ∧ legalIn i s.mode = true ∧ Succeeds i s t) := by
  have hcommon {m : Mode} (hg : gate i = some m) : alwaysLegal i = false := by
    simpa [hg] using mt (alwaysLegal_eq_true_iff i).1
  rcases exec_cases h with ⟨hg, rfl⟩ | ⟨m, hg, hf, rfl⟩ | ⟨m, hg, hf, hm, rfl⟩ | ⟨m, hg, hf, rfl, rfl⟩
  · exact .inr (.inr (.inr ⟨.inl ((alwaysLegal_eq_true_iff i).2 hg), (legalIn_eq_true_iff i _).2 (.inl hg),
      body_succeeds hg s⟩))
  · exact .inl ⟨hcommon hg, hf, rfl⟩
  · have hlegal : legalIn i s.mode = false := by
      simpa [hg, Ne.symm hm] using mt (legalIn_eq_true_iff i s.mode).1
    exact .inr (.inl ⟨hcommon hg, hf, hlegal, rfl⟩)
  · have hlegal := (legalIn_eq_true_iff i s.mode).2 (.inr hg)
    rcases body_outcome hf hg with hfail | hsucc
    · exact .inr (.inr (.inl ⟨hcommon hg, hf, hlegal, hfail⟩))
    · exact .inr (.inr (.inr ⟨.inr hf, hlegal, hsucc⟩))

/-- Every command has a next state (R246). -/
theorem exists_exec_eq_next (i : Instr) (s : State) : ∃ t, exec i s = .next t := by
  cases hg : gate i with
  | none => exact ⟨_, exec_of_gate_none hg s⟩
  | some m => exact ⟨_, exec_of_gate_some hg s⟩

theorem noFault_notMem_ownCauses (i : Instr) : FCause.noFault ∉ ownCauses i := by
  cases i <;> simp [ownCauses]

theorem seqError_notMem_ownCauses (i : Instr) : FCause.seqError ∉ ownCauses i := by
  cases i <;> simp [ownCauses]

theorem Fails.fcause_ne_noFault {i : Instr} {s t : State} (h : Fails i s t) : t.fcause ≠ .noFault :=
  fun e => noFault_notMem_ownCauses i (e ▸ h.cause)

theorem Fails.fcause_ne_seqError {i : Instr} {s t : State} (h : Fails i s t) : t.fcause ≠ .seqError :=
  fun e => seqError_notMem_ownCauses i (e ▸ h.cause)

/-- The response of a command: a fault without data, or its data without a fault (R89). -/
theorem exec_rsp {i : Instr} {s t : State} (h : exec i s = .next t) :
    (t.rsp = some ⟨true, 0⟩ ∧ alwaysLegal i = false ∧ (s.fcause ≠ .noFault ∨ t.fcause ≠ .noFault)) ∨
    (∃ d, t.rsp = some ⟨false, d⟩ ∧ answerData i s = some d ∧
      ¬ (alwaysLegal i = false ∧ (s.fcause ≠ .noFault ∨ t.fcause ≠ .noFault))) := by
  rcases exec_outcome h with ⟨ha, hf, rfl⟩ | ⟨ha, hf, -, rfl⟩ | ⟨ha, hf, -, hfail⟩ | ⟨ha, -, hsucc⟩
  · exact .inl ⟨rfl, ha, .inl hf⟩
  · exact .inl ⟨rfl, ha, .inr (by simp [hf])⟩
  · exact .inl ⟨hfail.rsp, ha, .inr hfail.fcause_ne_noFault⟩
  · obtain ⟨d, hdata, hrsp⟩ := hsucc.rsp
    refine .inr ⟨d, hrsp, hdata, ?_⟩
    rintro ⟨hgated, hfault⟩
    have hf : s.fcause = .noFault := ha.resolve_left (by simp [hgated])
    exact hfault.elim (· hf) (· (hsucc.fcause hf))

/-- Settles O8: a fault answers without data, a success with the data of its command. -/
theorem responseIsFaultBitAndData : Obligations.ResponseIsFaultBitAndData := by
  unfold Obligations.ResponseIsFaultBitAndData
  refine ⟨fun s w rest e hport he => ?_, fun s w rest i hport hi => ?_⟩
  · exact ⟨_, (step_of_port_command hport).trans (takeCommand_of_error _ he), rfl⟩
  obtain ⟨t, ht⟩ := exists_exec_eq_next i { s with port := rest }
  have hstep : step s = .next t := ((step_of_port_command hport).trans (takeCommand_of_ok _ hi)).trans ht
  rcases exec_rsp ht with ⟨hrsp, hfault⟩ | ⟨d, hrsp, hdata, hgood⟩
  · exact ⟨t, _, hstep, hrsp, by simpa using hfault, by simp⟩
  · refine ⟨t, _, hstep, hrsp, by simpa using hgood, by simp, ?_, ?_, ?_, ?_⟩
    · rintro - rfl
      exact (Option.some.inj hdata).symm
    · rintro - rfl
      exact (Option.some.inj hdata).symm
    · rintro - rfl
      obtain ⟨v, hv, rfl⟩ := Option.map_eq_some_iff.1 hdata
      exact ⟨v, hv, rfl⟩
    · intro _ hrdst hrdn hpop
      exact (Option.some.inj ((answerData_of_ne hrdst hrdn hpop _).symm.trans hdata)).symm

/-- Outside `IDLE` the table leads back to it only by `CLR` and `SRST`. -/
theorem clr_or_srst_of_nextMode_idle {i : Instr} {m : Mode} (hl : legalIn i m = true) (hm : m ≠ .idle)
    (hn : nextMode i m = .idle) : i = .clr ∨ i = .srst := by
  cases i with
  | srst => exact .inr rfl
  | clr => exact .inl rfl
  | rdst | rdn => exact absurd hn hm
  | lda | chka | kclr | kpush | setl | encb | decb => exact absurd (beq_iff_eq.1 hl) hm
  | encp | ence | decp | dece | pop => cases hn

/-- Settles O34: a command in its mode fails with a cause of its own or succeeds, and elsewhere raises `SeqError`; either way
`MODE` stays or is the next one of the table. -/
theorem modeMachine : Obligations.ModeMachine := by
  unfold Obligations.ModeMachine
  intro i s t hf ht
  rcases exec_outcome ht with ⟨-, hfault, -⟩ | ⟨-, -, hl, rfl⟩ | ⟨-, -, hl, hfail⟩ | ⟨-, hl, hsucc⟩
  · exact absurd hf hfault
  · exact ⟨by simp [hl], fun _ => ⟨by simp [hf], rfl⟩, fun hm hidle => absurd hidle hm⟩
  · refine ⟨fun _ => ⟨hfail.fcause_ne_seqError, fun h => absurd h hfail.fcause_ne_noFault⟩, by simp [hl], ?_⟩
    intro hm hidle
    rcases hfail.mode with h | h
    · exact absurd (h ▸ hidle) hm
    · exact clr_or_srst_of_nextMode_idle hl hm (h ▸ hidle)
  · refine ⟨fun _ => ⟨by simp [hsucc.fcause hf], fun _ => hsucc.mode⟩, by simp [hl], ?_⟩
    exact fun hm hidle => clr_or_srst_of_nextMode_idle hl hm (hsucc.mode ▸ hidle)

end Sys2Proof.Machine
end

section
/-! The configuration commands: reset and clear, the alphabet, the key (spec/40_config.md). -/

namespace Sys2Proof

/-- Bit strings put together are their numbers put together. -/
theorem toNat_append_eq_add {m n : Nat} (x : BitVec m) (y : BitVec n) :
    (x ++ y).toNat = x.toNat * 2 ^ n + y.toNat := by
  rw [BitVec.toNat_append, ← Nat.shiftLeft_add_eq_or_of_lt y.isLt, Nat.shiftLeft_eq]

/-- The word of `LDA` as a number (R102). -/
theorem encode_lda_toNat (idx : Sym) (ch : Chr) :
    (encode (.lda idx ch)).toNat = 0x30000000 + idx.toNat * 2 ^ 24 + ch.toNat := by
  simp only [encode, toNat_append_eq_add, BitVec.toNat_ofNat]
  omega

/-- The word of `KPUSH` as a number (R106). -/
theorem encode_kpush_toNat (b : Byte) : (encode (.kpush b)).toNat = 0x60000000 + b.toNat := by
  simp only [encode, toNat_append_eq_add, BitVec.toNat_ofNat]
  omega

namespace Machine

section gated
variable {i : Instr} {m : Mode} {s : State} (hg : gate i = some m) (hf : s.fcause = .noFault)
include hg hf

/-- Without a fault a command runs its pseudocode in the mode it is legal in (R92). -/
theorem exec_of_legal (hm : s.mode = m) : exec i s = .next (body i s) := by
  rw [exec_of_gate_some hg, inMode_of_legal hf hm]

/-- Without a fault a command outside its mode raises `SeqError` and does nothing else (R218). -/
theorem exec_of_wrong_mode (hm : s.mode ≠ m) :
    exec i s = .next { s with fcause := .seqError, rsp := some ⟨true, 0⟩ } := by
  rw [exec_of_gate_some hg, inMode_of_ne hf hm, State.raise_of_noFault _ hf]

end gated

/-- Settles O10: `SRST` and hardware reset are the same restart, and `RDST` reads the status word a restart leaves. -/
theorem softResetIsHardwareReset : Obligations.SoftResetIsHardwareReset := by
  unfold Obligations.SoftResetIsHardwareReset
  refine ⟨rfl, fun s => rfl, fun s rest hport => ?_, fun s t u ht hu => ?_⟩
  · obtain ⟨r, hstep⟩ := step_of_reset (.inl hport)
    exact ⟨_, hstep, rfl⟩
  · obtain rfl : s.restart.ok = t := Host.Outcome.next.inj ht
    obtain rfl : s.restart.ok.answer false s.restart.status = u := Host.Outcome.next.inj hu
    rw [s.restart_status, State.answer_rsp]

/-- Without a transaction and without a fault there is nothing to clear (R101). -/
theorem State.clearTransaction_of_clear {s : State} (hc : s.Clear) (hm : s.mode = .idle) (hf : s.fcause = .noFault) :
    s.clearTransaction = s := by
  obtain ⟨hgrp, hgcnt, hkidx, hu, hrb, hrkind, hv⟩ := hc
  simp [State.clearTransaction, ← hgrp, ← hgcnt, ← hkidx, ← hu, ← hrb, ← hrkind, ← hv, ← hm, ← hf]

/-- Settles O12: `CLR` writes the transaction and the fault, and R40 says that they are clear in `IDLE`. -/
theorem clrClearsTransactionAndFault : Obligations.ClrClearsTransactionAndFault := by
  unfold Obligations.ClrClearsTransactionAndFault
  refine ⟨rfl, fun s => rfl, fun s h hm hf => ?_⟩
  calc exec .clr s = .next s.clearTransaction.ok := exec_of_gate_none rfl s
    _ = .next s.ok := by rw [State.clearTransaction_of_clear (h.idleIsClear hm) hm hf]

/-- Settles O13: `LDA` writes its slot and its bit of `ALOADED`, and no other of either. -/
theorem ldaLoadsSlot : Obligations.LdaLoadsSlot := by
  unfold Obligations.LdaLoadsSlot
  intro idx ch s hf
  refine ⟨encode_lda_toNat idx ch, fun hm => ?_, exec_of_wrong_mode rfl hf⟩
  refine ⟨ldaBody idx ch s, exec_of_legal rfl hf hm, ?_, fun j hj => ?_, fun j => ?_, rfl⟩
  · rw [ldaBody_alphaEntry, if_pos rfl]
  · rw [ldaBody_alphaEntry, if_neg hj]
  · exact (setLoaded_getLsbD s.aloaded idx j).trans (Bool.or_comm _ _)

/-- `checkCharset` decides the length and that no two characters are equal (R103). -/
theorem checkCharset_eq_true_iff (c : List Chr) : checkCharset c = true ↔ c.length = 8 ∧ c.Pairwise (· ≠ ·) :=
  decide_eq_true_iff

/-- Settles O14: the pairs of a list are the pairs of its indices. -/
theorem checkCharsetMeansEightDistinct : Obligations.CheckCharsetMeansEightDistinct := by
  unfold Obligations.CheckCharsetMeansEightDistinct
  intro chars
  rw [checkCharset_eq_true_iff, List.pairwise_iff_getElem]
  refine and_congr_right fun hlen => ⟨fun h i j hij hj x y hx hy => ?_, fun h i j hi hj hij => ?_⟩
  · obtain ⟨hi', rfl⟩ := List.getElem?_eq_some_iff.1 hx
    obtain ⟨hj', rfl⟩ := List.getElem?_eq_some_iff.1 hy
    exact h i j hi' hj' hij
  · exact h i j hij (hlen ▸ hj) _ _ (List.getElem?_eq_getElem hi) (List.getElem?_eq_getElem hj)

/-- `checkCharset` of the alphabet compares the reads of its entries (R104). -/
theorem State.checkCharset_alphabet_iff (s : State) : checkCharset s.alphabet.toList = true ↔
    ∀ i j : Sym, i.toNat < j.toNat → s.alphaRead i ≠ s.alphaRead j := by
  rw [checkCharset_eq_true_iff, List.pairwise_iff_getElem]
  simp only [Vector.length_toList, Vector.getElem_toList, true_and]
  constructor
  · intro h i j hij
    rw [← s.alphabet_getElem, ← s.alphabet_getElem]
    exact h i.toNat j.toNat i.isLt j.isLt hij
  · intro h i j hi hj hij
    have := h (BitVec.ofFin ⟨i, hi⟩) (BitVec.ofFin ⟨j, hj⟩) hij
    rwa [← s.alphabet_getElem, ← s.alphabet_getElem] at this

/-- `CHKA` passes on a loaded alphabet without equal entries (R104). -/
theorem chkaBody_of_distinct {s : State} (hl : s.aloaded = 0xFF#8) (hc : checkCharset s.alphabet.toList = true) :
    chkaBody s = ({ s with alphaOk := true } : State).ok := by
  simp [chkaBody, hl, hc]

/-- `CHKA` fails on an unloaded slot or on equal entries, and clears `ALPHA_OK` (R104, R212). -/
theorem chkaBody_of_not_distinct {s : State} (hf : s.fcause = .noFault)
    (h : s.aloaded ≠ 0xFF#8 ∨ checkCharset s.alphabet.toList = false) :
    chkaBody s = { s with alphaOk := false, fcause := .invalidAlphabet, rsp := some ⟨true, 0⟩ } := by
  have hraise := State.raise_of_noFault (s := { s with alphaOk := false }) .invalidAlphabet hf
  rcases h with h | h <;> simp [chkaBody, h, hraise]

section transaction
variable {s : State} (hf : s.fcause = .noFault) (hm : s.mode = .idle)
include hf hm

/-- `ENCB` and `DECB` share the checks that open a transaction, and so the fault of a failing one (R125, R146). -/
theorem exec_encb_decb_of_raise {c : FCause} (h : ∀ m k, beginTransaction m k s = s.raise c) :
    exec .encb s = .next { s with fcause := c, rsp := some ⟨true, 0⟩ } ∧
    exec .decb s = .next { s with fcause := c, rsp := some ⟨true, 0⟩ } := by
  rw [← State.raise_of_noFault c hf]
  exact ⟨(exec_of_legal rfl hf hm).trans (congrArg _ (h .enc .chars)),
    (exec_of_legal rfl hf hm).trans (congrArg _ (h .dec .bytes))⟩

/-- No transaction opens without a checked alphabet (R125, R146). -/
theorem exec_encb_decb_of_unchecked (ha : s.alphaOk = false) :
    exec .encb s = .next { s with fcause := .alphabetNotReady, rsp := some ⟨true, 0⟩ } ∧
    exec .decb s = .next { s with fcause := .alphabetNotReady, rsp := some ⟨true, 0⟩ } :=
  exec_encb_decb_of_raise hf hm fun _ _ => if_pos ha

/-- With a checked alphabet no transaction opens without a key (R125, R146). -/
theorem exec_encb_decb_of_keyless (ha : s.alphaOk = true) (hk : s.keylen = 0) :
    exec .encb s = .next { s with fcause := .keyEmpty, rsp := some ⟨true, 0⟩ } ∧
    exec .decb s = .next { s with fcause := .keyEmpty, rsp := some ⟨true, 0⟩ } :=
  exec_encb_decb_of_raise hf hm fun _ _ => (if_neg (by simp [ha])).trans (if_pos hk)

end transaction

/-- Settles O15: `CHKA` compares the reads of the eight slots; `CLR` after a failing one leaves `ALPHA_OK` clear. -/
theorem chkaChecksAlphabet : Obligations.ChkaChecksAlphabet := by
  unfold Obligations.ChkaChecksAlphabet
  refine ⟨rfl, fun s hf => ⟨fun hm hl hdist => ?_, fun hm hbad => ⟨?_, fun u hu => ?_⟩, exec_of_wrong_mode rfl hf⟩⟩
  · have hcheck := s.checkCharset_alphabet_iff.2 hdist
    exact (exec_of_legal rfl hf hm).trans (congrArg _ (chkaBody_of_distinct hl hcheck))
  · have hcheck : s.aloaded ≠ 0xFF#8 ∨ checkCharset s.alphabet.toList = false := by
      refine hbad.imp_right fun ⟨i, j, hij, heq⟩ => Bool.eq_false_iff.2 fun hc => ?_
      exact s.checkCharset_alphabet_iff.1 hc i j hij heq
    exact (exec_of_legal rfl hf hm).trans (congrArg _ (chkaBody_of_not_distinct hf hcheck))
  · obtain rfl := Host.Outcome.next.inj hu
    exact exec_encb_decb_of_unchecked rfl rfl rfl

/-- After `KCLR` no key entry holds a value (R105). -/
theorem kclrBody_keyEntry (s : State) (j : Nat) : (kclrBody s).keyEntry j = none := by
  simp only [State.keyEntry, kclrBody, State.ok_key, List.getElem?_replicate]
  split <;> rfl

/-- `KPUSH 0` on the key that `KCLR` left is the neutral key of reset (R105, R41). -/
theorem kpushBody_zero_kclrBody {s : State} (hmax : 1 ≤ s.params.keyMax) (harray : s.key.length = s.params.keyMax) :
    (kpushBody 0 (kclrBody s)).key = (State.resetWith s.params).key ∧ (kpushBody 0 (kclrBody s)).keylen = 1 := by
  obtain ⟨n, hn⟩ : ∃ n, s.params.keyMax = n + 1 := ⟨s.params.keyMax - 1, by omega⟩
  rw [kpushBody_of_lt 0 (show (kclrBody s).keylen.toNat < (kclrBody s).params.keyMax from hmax)]
  refine ⟨?_, rfl⟩
  simp [kclrBody, State.resetWith, harray, hn, List.replicate_succ]

/-- Settles O16: the key that `KCLR` leaves is empty, so no transaction opens, and has room for the neutral key. -/
theorem kclrEmptiesKey : Obligations.KclrEmptiesKey := by
  unfold Obligations.KclrEmptiesKey
  refine ⟨rfl, fun s hf => ⟨fun hm => ?_, exec_of_wrong_mode rfl hf⟩⟩
  refine ⟨kclrBody s, exec_of_legal rfl hf hm, rfl, List.length_replicate, kclrBody_keyEntry s, rfl, fun ha => ?_,
    fun hp harray => ?_⟩
  · exact exec_encb_decb_of_keyless (s := kclrBody s) hf hm ha rfl
  · exact ⟨kpushBody 0 (kclrBody s), exec_of_legal rfl hf hm, kpushBody_zero_kclrBody hp.1 harray⟩

/-- Writing a key entry inside the array gives it the byte and leaves the others (R24). -/
theorem State.keyEntry_set {s : State} {n : Nat} (hn : n < s.key.length) (b : Byte) (j : Nat) :
    ({ s with key := s.key.set n (some b) } : State).keyEntry j = if j = n then some b else s.keyEntry j := by
  simp only [State.keyEntry, List.getElem?_set]
  by_cases hj : j = n
  · simp [hj, hn]
  · simp [hj, Ne.symm hj]

/-- `KPUSH` on a full key raises `KeyOverflow` (R106). -/
theorem kpushBody_of_full {s : State} (b : Byte) (hf : s.fcause = .noFault) (h : s.keylen.toNat = s.params.keyMax) :
    kpushBody b s = { s with fcause := .keyOverflow, rsp := some ⟨true, 0⟩ } :=
  (if_pos h).trans (State.raise_of_noFault _ hf)

/-- Settles O17: `KPUSH` with room writes the entry at `KEYLEN` and counts it; `KEYMAX` is at most 255, so nothing
wraps. -/
theorem kpushAppendsKeyByte : Obligations.KpushAppendsKeyByte := by
  unfold Obligations.KpushAppendsKeyByte
  intro b s hf
  refine ⟨encode_kpush_toNat b, fun hm hfull => ?_, fun hm hlt hmax harray => ?_, exec_of_wrong_mode rfl hf⟩
  · exact (exec_of_legal rfl hf hm).trans (congrArg _ (kpushBody_of_full b hf hfull))
  · have hcount : (s.keylen + 1).toNat = s.keylen.toNat + 1 := by simp [BitVec.toNat_add]; omega
    have hentry := State.keyEntry_set (harray ▸ hlt) b
    refine ⟨kpushBody b s, exec_of_legal rfl hf hm, ?_⟩
    rw [kpushBody_of_lt b hlt]
    exact ⟨hcount, (hentry _).trans (if_pos rfl), fun j hj => (hentry j).trans (if_neg hj), rfl⟩

end Machine

end Sys2Proof
end

section
/-! The pure functions of the encode path, element by element: the key cycled over the bytes, the bits joined and split again
(spec/41_encode.md R120 to R123). -/

namespace Sys2Proof.Machine

/-- `shift` adds to each byte the key byte of its place (R120). -/
theorem shiftFrom_eq_mapIdx (key : List Byte) (i : Nat) (bs : List Byte) :
    shiftFrom key i bs = bs.mapIdx fun j b => b + keyAt key (i + j) := by
  induction bs generalizing i with
  | nil => rfl
  | cons b bs ih => simp [shiftFrom, ih, List.mapIdx_cons, Nat.add_right_comm, Nat.add_assoc]

/-- `unshift` takes from each byte the key byte of its place (R143). -/
theorem unshiftFrom_eq_mapIdx (key : List Byte) (i : Nat) (bs : List Byte) :
    unshiftFrom key i bs = bs.mapIdx fun j b => b - keyAt key (i + j) := by
  induction bs generalizing i with
  | nil => rfl
  | cons b bs ih => simp [unshiftFrom, ih, List.mapIdx_cons, Nat.add_right_comm, Nat.add_assoc]

theorem shift_eq_mapIdx (bs key : List Byte) : shift bs key = bs.mapIdx fun j b => b + keyAt key j := by
  simp [shift, shiftFrom_eq_mapIdx]

theorem unshift_eq_mapIdx (bs key : List Byte) : unshift bs key = bs.mapIdx fun j b => b - keyAt key j := by
  simp [unshift, unshiftFrom_eq_mapIdx]

@[simp] theorem shift_length (bs key : List Byte) : (shift bs key).length = bs.length := by
  simp [shift_eq_mapIdx]

@[simp] theorem unshift_length (bs key : List Byte) : (unshift bs key).length = bs.length := by
  simp [unshift_eq_mapIdx]

/-- One more byte is shifted by the key byte of its place. -/
theorem shift_append_singleton (bs key : List Byte) (b : Byte) :
    shift (bs ++ [b]) key = shift bs key ++ [b + keyAt key bs.length] := by
  simp [shift_eq_mapIdx, List.mapIdx_append]

/-- The key byte of a place is the entry at the place modulo the key length. -/
theorem keyAt_of_getElem? {key : List Byte} {i : Nat} {k : Byte} (h : key[i % key.length]? = some k) : keyAt key i = k := by
  rw [keyAt, List.getD_eq_getElem?_getD, h, Option.getD_some]

/-- Settles O44: both functions map each byte with the key byte of its place, and bit vectors wrap as R120 and R143 say. -/
theorem shiftElementwise : Obligations.ShiftElementwise := by
  unfold Obligations.ShiftElementwise
  intro bytes key _
  refine ⟨shift_length _ _, unshift_length _ _, fun i b k hb hk => ⟨⟨b + k, ?_, ?_⟩, ⟨b - k, ?_, ?_⟩⟩⟩
  · simp [shift_eq_mapIdx, hb, keyAt_of_getElem? hk]
  · exact BitVec.toNat_add b k
  · simp [unshift_eq_mapIdx, hb, keyAt_of_getElem? hk]
  · rw [BitVec.toNat_sub]
    omega

/-- The bits of a value, the most significant first. -/
theorem bitsOf_eq_map_getMsbD {n : Nat} (v : BitVec n) : bitsOf v = (List.range n).map v.getMsbD := by
  refine List.map_congr_left fun k hk => ?_
  simp [BitVec.getMsbD, List.mem_range.1 hk]

@[simp] theorem bitsOf_length {n : Nat} (v : BitVec n) : (bitsOf v).length = n := by
  simp [bitsOf]

theorem bitsOf_getD {n : Nat} (v : BitVec n) (k : Nat) : (bitsOf v).getD k false = v.getMsbD k := by
  rw [bitsOf_eq_map_getMsbD, List.getD_eq_getElem?_getD, List.getElem?_map]
  by_cases hk : k < n
  · simp [hk]
  · simp [hk, BitVec.getMsbD]

@[simp] theorem joinOctets_cons (b : Byte) (bs : List Byte) : joinOctets (b :: bs) = bitsOf b ++ joinOctets bs := rfl

theorem joinOctets_append_singleton (bs : List Byte) (b : Byte) : joinOctets (bs ++ [b]) = joinOctets bs ++ bitsOf b := by
  simp [joinOctets]

/-- Each byte is eight bits (R121). -/
@[simp] theorem joinOctets_length (bs : List Byte) : (joinOctets bs).length = 8 * bs.length := by
  simp [joinOctets, Nat.mul_comm]

/-- The eight bits of byte `i` stand from place `8i` on, the most significant first (R121). -/
theorem joinOctets_getElem? {bs : List Byte} {i k : Nat} {b : Byte} (hb : bs[i]? = some b) (hk : k < 8) :
    (joinOctets bs)[8 * i + k]? = some (b.getLsbD (7 - k)) := by
  induction bs generalizing i with
  | nil => simp at hb
  | cons c bs ih =>
    cases i with
    | zero =>
      obtain rfl : c = b := by simpa using hb
      simp [List.getElem?_append_left, bitsOf, hk]
    | succ i =>
      have hplace : 8 * (i + 1) + k - 8 = 8 * i + k := by omega
      rw [joinOctets_cons, List.getElem?_append_right (by simp; omega), bitsOf_length, hplace]
      exact ih hb

/-- Symbol `j` of a bit string: bits `3j` to `3j + 2`, zero beyond the end (R122). -/
def symbolAt (bits : Bits) (j : Nat) : Sym :=
  tripletOf (bits.getD (3 * j) false) (bits.getD (3 * j + 1) false) (bits.getD (3 * j + 2) false)

/-- Three bits as a number. -/
theorem tripletOf_toNat (a b c : Bool) : (tripletOf a b c).toNat = 4 * a.toNat + 2 * b.toNat + c.toNat := by
  revert a b c
  decide

/-- `splitTriplets` gives the symbols of the bit string one after the other (R122). -/
theorem splitTriplets_eq_map_symbolAt (bits : Bits) :
    splitTriplets bits = (List.range ((bits.length + 2) / 3)).map (symbolAt bits) := by
  induction bits using splitTriplets.induct with
  | case1 => rfl
  | case2 a => simp [splitTriplets, symbolAt]
  | case3 a b => simp [splitTriplets, symbolAt]
  | case4 a b c rest ih =>
    have hlen : ((a :: b :: c :: rest).length + 2) / 3 = (rest.length + 2) / 3 + 1 := by simp; omega
    rw [splitTriplets, ih, hlen, List.range_succ_eq_map, List.map_cons, List.map_map]
    rfl

@[simp] theorem splitTriplets_length (bits : Bits) : (splitTriplets bits).length = (bits.length + 2) / 3 := by
  simp [splitTriplets_eq_map_symbolAt]

/-- Settles O46: the bits of each byte stand in their place, and the symbols are read three bits at a time. -/
theorem packerBitFields : Obligations.PackerBitFields := by
  unfold Obligations.PackerBitFields
  refine ⟨fun bytes => ⟨joinOctets_length bytes, fun i k b => joinOctets_getElem?⟩,
    fun bits => ⟨splitTriplets_length bits, fun j x hx => ?_⟩⟩
  obtain rfl : symbolAt bits j = x := by
    rw [splitTriplets_eq_map_symbolAt, List.getElem?_map] at hx
    obtain ⟨j', hj, rfl⟩ := Option.map_eq_some_iff.1 hx
    obtain ⟨-, rfl⟩ := List.getElem?_eq_some_iff.1 hj
    rw [List.getElem_range]
  exact tripletOf_toNat _ _ _

end Sys2Proof.Machine
end

section
/-! The encode commands (spec/41_encode.md R125 to R127). -/

namespace Sys2Proof

/-- The word of `ENCP` as a number (R126). -/
theorem encode_encp_toNat (b : Byte) : (encode (.encp b)).toNat = 0x90000000 + b.toNat := by
  simp only [encode, toNat_append_eq_add, BitVec.toNat_ofNat]
  omega

namespace Machine

/-- With a checked alphabet and a key a transaction opens (R125, R146). -/
theorem beginTransaction_of_configured {s : State} (m : Mode) (k : RKind) (ha : s.alphaOk = true) (hk : s.keylen ≠ 0) :
    beginTransaction m k s = ({ s with mode := m, rkind := k } : State).ok :=
  (if_neg (by simp [ha])).trans (if_neg hk)

/-- Settles O19: `ENCB` writes the mode and the kind of the items, or raises the fault of the first check that fails. -/
theorem encbOpensEncode : Obligations.EncbOpensEncode := by
  unfold Obligations.EncbOpensEncode
  refine ⟨rfl, fun s hf => ⟨fun hm ha hk => ?_, fun hm ha => ?_, fun hm ha hk => ?_, exec_of_wrong_mode rfl hf,
    fun h hm => ?_⟩⟩
  · exact (exec_of_legal rfl hf hm).trans (congrArg _ (beginTransaction_of_configured .enc .chars ha hk))
  · exact (exec_encb_decb_of_unchecked hf hm ha).1
  · exact (exec_encb_decb_of_keyless hf hm ha hk).1
  · obtain ⟨hgrp, hgcnt, hkidx, -, hrb, -, hv⟩ := h.idleIsClear hm
    exact ⟨hkidx, hgrp, hgcnt, hrb, hv⟩

/-- The next key index as a number (R29). -/
theorem nextKidx_toNat (kidx : BitVec 8) {keylen : BitVec 8} (h : keylen ≠ 0) :
    (nextKidx kidx keylen).toNat = (kidx.toNat + 1) % keylen.toNat := by
  have hlt : (kidx.toNat + 1) % keylen.toNat < keylen.toNat := Nat.mod_lt _ (by bv_omega)
  rw [nextKidx, if_neg h, BitVec.toNat_ofNat, Nat.mod_eq_of_lt (hlt.trans keylen.isLt)]

section encp
variable {s : State} (b : Byte)

/-- The first and the second byte of a group append nothing (R126). -/
theorem encpBody_of_ne_two (h : s.gcnt.toNat ≠ 2) :
    encpBody b s = ((s.setGroup (encGroup b s) (s.gcnt + 1)).advanceKey).ok :=
  if_neg fun h2 => h (by simp [h2])

/-- The third byte empties the group into eight characters, if there is room (R126). -/
theorem encpBody_of_room (h : s.gcnt.toNat = 2) (hroom : s.rb.length + 8 ≤ s.params.rbMax) :
    encpBody b s = (((s.pushSymbols (encGroup b s) 8).setGroup 0 0).advanceKey).ok := by
  have hgcnt : s.gcnt = 2 := BitVec.eq_of_toNat_eq h
  rw [encpBody, if_pos hgcnt, if_neg (by simp [State.hasRoom_eq_true.2 hroom])]

/-- The third byte raises `ResultOverflow`, if there is no room (R126). -/
theorem encpBody_of_no_room (hf : s.fcause = .noFault) (h : s.gcnt.toNat = 2)
    (hroom : s.params.rbMax < s.rb.length + 8) :
    encpBody b s = { s with fcause := .resultOverflow, rsp := some ⟨true, 0⟩ } := by
  have hgcnt : s.gcnt = 2 := BitVec.eq_of_toNat_eq h
  rw [encpBody, if_pos hgcnt, if_pos (State.hasRoom_eq_false.2 hroom), State.raise_of_noFault _ hf]

/-- With `GCNT` at most 2 the shifted byte goes to its place of the group (R126). -/
theorem encGroup_of_le (h : s.gcnt.toNat ≤ 2) :
    encGroup b s = s.grp ||| (b + s.keyRead s.kidx).setWidth 24 <<< (16 - 8 * s.gcnt.toNat) := by
  rw [encGroup, place, if_pos h, shiftByte]

end encp

/-- Settles O20: the arithmetic of the statement fixes the shifted byte, the group and the next index, and the count of the
group and the room decide what `ENCP` does. -/
theorem encpShiftsAndPacks : Obligations.EncpShiftsAndPacks := by
  unfold Obligations.EncpShiftsAndPacks
  refine ⟨fun b s => ⟨encode_encp_toNat b, exec_of_wrong_mode rfl⟩, fun b x g k s hf hm hgcnt hkey hx hg hk => ?_⟩
  obtain rfl : b + s.keyRead s.kidx = x := BitVec.eq_of_toNat_eq ((BitVec.toNat_add _ _).trans hx.symm)
  obtain rfl : encGroup b s = g := (encGroup_of_le b hgcnt).trans hg.symm
  obtain rfl : nextKidx s.kidx s.keylen = k := BitVec.eq_of_toNat_eq ((nextKidx_toNat _ hkey).trans hk.symm)
  have hexec : exec (.encp b) s = .next (encpBody b s) := exec_of_legal rfl hf hm
  refine ⟨fun h => ?_, fun h hroom => ?_, fun h hroom => ?_⟩
  · exact hexec.trans (congrArg _ (encpBody_of_ne_two b (Nat.ne_of_lt h)))
  · exact hexec.trans (congrArg _ (encpBody_of_room b h hroom))
  · exact hexec.trans (congrArg _ (encpBody_of_no_room b hf h hroom))

/-- A group of at most two bytes flushes three symbols a byte (R127). -/
theorem flushSymbols_eq {k : BitVec 3} (h : k.toNat ≤ 2) : flushSymbols k = 3 * k.toNat := by
  obtain rfl | rfl | rfl : k = 0 ∨ k = 1 ∨ k = 2 := by bv_omega
  all_goals rfl

/-- `ENCE` flushes the short group and closes, if there is room (R127). -/
theorem enceBody_of_room {s : State} (hroom : s.rb.length + flushSymbols s.gcnt ≤ s.params.rbMax) :
    enceBody s =
      ({ ((s.pushSymbols s.grp (flushSymbols s.gcnt)).setGroup 0 0) with mode := .done, verdict := .ok } : State).ok :=
  if_neg (by simp [State.hasRoom_eq_true.2 hroom])

/-- `ENCE` raises `ResultOverflow`, if there is no room (R127). -/
theorem enceBody_of_no_room {s : State} (hf : s.fcause = .noFault)
    (hroom : s.params.rbMax < s.rb.length + flushSymbols s.gcnt) :
    enceBody s = { s with fcause := .resultOverflow, rsp := some ⟨true, 0⟩ } :=
  (if_pos (State.hasRoom_eq_false.2 hroom)).trans (State.raise_of_noFault _ hf)

/-- Settles O21: three symbols are flushed a byte, and the room decides what `ENCE` does. -/
theorem enceFlushesAndCloses : Obligations.EnceFlushesAndCloses := by
  unfold Obligations.EnceFlushesAndCloses
  refine ⟨rfl, fun s hf => exec_of_wrong_mode rfl hf, fun s m hf hm hflush => ?_⟩
  obtain rfl : flushSymbols s.gcnt = m := by rw [flushSymbols_eq (by omega)]; omega
  have hexec : exec .ence s = .next (enceBody s) := exec_of_legal rfl hf hm
  refine ⟨fun hroom => ?_, fun hroom => ?_⟩
  · exact hexec.trans (congrArg _ (enceBody_of_room hroom))
  · exact hexec.trans (congrArg _ (enceBody_of_no_room hf hroom))

end Machine

end Sys2Proof
end

section
/-! A run of commands, and of a whole transaction: where its induction goes, and what its responses say of its end
(spec/60_exceptions.md R214, 70_reset_and_hazards.md R245). -/

namespace Sys2Proof.Machine

/-- A run of one command and more is a command executed, then the run of the others. -/
theorem exists_of_runInstrs_cons {i : Instr} {is : List Instr} {s t : State} {rs : List Response}
    (h : runInstrs (i :: is) s = .next (rs, t)) :
    ∃ u rs', exec i s = .next u ∧ runInstrs is u = .next (rs', t) ∧ rs = u.rsp.toList ++ rs' := by
  obtain ⟨u, rs', hu, hrest, hrs⟩ := exists_of_runWords_cons h
  exact ⟨u, rs', (takeCommand_of_ok s (decode_encode i)).symm.trans hu, hrest, hrs⟩

/-- A run of no command answers nothing and changes nothing. -/
theorem eq_of_runInstrs_nil {s t : State} {rs : List Response} (h : runInstrs [] s = .next (rs, t)) : rs = [] ∧ t = s := by
  obtain ⟨rfl, rfl⟩ := Prod.mk.inj (Host.Outcome.next.inj h)
  exact ⟨rfl, rfl⟩

/-- Every run of commands comes to its end (R246). -/
theorem exists_runInstrs_eq_next (is : List Instr) (s : State) : ∃ rs t, runInstrs is s = .next (rs, t) := by
  induction is generalizing s with
  | nil => exact ⟨[], s, rfl⟩
  | cons i is ih =>
    obtain ⟨u, hu⟩ := exists_exec_eq_next i s
    obtain ⟨rs, t, hrest⟩ := ih u
    have htake : takeCommand (encode i) s = .next u := (takeCommand_of_ok s (decode_encode i)).trans hu
    refine ⟨u.rsp.toList ++ rs, t, (runWords_cons_of_next htake).trans ?_⟩
    rw [show runWords (is.map encode) u = .next (rs, t) from hrest, afterFirst]

section transaction
variable {α : Type} {f : α → Instr} {P : List α → State → Prop}
  (hstep : ∀ as a u v, P as u → exec (f a) u = .next v → P (as ++ [a]) v)
include hstep

/-- What one command a datum keeps of the data given so far holds of all of them when the last command is executed. -/
theorem exists_of_runInstrs_map_concat {i : Instr} {pre as : List α} {s t : State} {rs : List Response} (h : P pre s)
    (hrun : runInstrs (as.map f ++ [i]) s = .next (rs, t)) : ∃ u, P (pre ++ as) u ∧ exec i u = .next t := by
  induction as generalizing pre s rs with
  | nil =>
    obtain ⟨u, rs', hu, hnil, -⟩ := exists_of_runInstrs_cons hrun
    obtain ⟨-, rfl⟩ := eq_of_runInstrs_nil hnil
    exact ⟨s, by simpa using h, hu⟩
  | cons a as ih =>
    obtain ⟨u, rs', hu, hrest, -⟩ := exists_of_runInstrs_cons hrun
    simpa using ih (hstep pre a s u h hu) hrest

/-- A transaction opens, takes its data one by one, and closes (R198, R199): an invariant of the data taken so far that the
opening command establishes holds of all the data when the closing command is executed. -/
theorem exists_of_runInstrs_transaction {i j : Instr} {as : List α} {s t : State} {rs : List Response}
    (hopen : ∀ u, exec i s = .next u → P [] u) (hrun : runInstrs (i :: (as.map f ++ [j])) s = .next (rs, t)) :
    ∃ u, P as u ∧ exec j u = .next t := by
  obtain ⟨u, rs', hu, hrest, -⟩ := exists_of_runInstrs_cons hrun
  exact exists_of_runInstrs_map_concat hstep (hopen u hu) hrest

end transaction

/-- A faulted machine executes none of the gated commands (R214). -/
theorem faulted_of_exec_of_faulted {i : Instr} {s t : State} (hi : alwaysLegal i = false) (hf : s.Faulted)
    (h : exec i s = .next t) : t.Faulted := by
  cases hg : gate i with
  | none => simp [(alwaysLegal_eq_true_iff i).2 hg] at hi
  | some m =>
    rw [exec_of_gate_some hg, inMode_of_faulted hf] at h
    obtain rfl := Host.Outcome.next.inj h
    exact hf

section gated
variable {is : List Instr} {s t : State} {rs : List Response}

/-- A fault stays through gated commands (R213, R214). -/
theorem faulted_of_runInstrs_of_faulted (hgated : ∀ i ∈ is, alwaysLegal i = false) (hf : s.Faulted)
    (hrun : runInstrs is s = .next (rs, t)) : t.Faulted := by
  induction is generalizing s rs with
  | nil =>
    obtain ⟨-, rfl⟩ := eq_of_runInstrs_nil hrun
    exact hf
  | cons i is ih =>
    obtain ⟨u, rs', hu, hrest, -⟩ := exists_of_runInstrs_cons hrun
    obtain ⟨hi, his⟩ := List.forall_mem_cons.1 hgated
    exact ih his (faulted_of_exec_of_faulted hi hf hu) hrest

/-- From an unfaulted state, gated commands that return no data end unfaulted and answer that all is well, or end faulted and
say so (R89, R253). -/
theorem runInstrs_responses (hplain : ∀ i ∈ is, alwaysLegal i = false ∧ ∀ u, answerData i u = some 0)
    (hf : s.fcause = .noFault) (hrun : runInstrs is s = .next (rs, t)) :
    (t.fcause = .noFault ∧ ∀ r ∈ rs, r = ⟨false, 0⟩) ∨ (t.Faulted ∧ ∃ r ∈ rs, r.flt = true) := by
  induction is generalizing s rs with
  | nil =>
    obtain ⟨rfl, rfl⟩ := eq_of_runInstrs_nil hrun
    exact .inl ⟨hf, by simp⟩
  | cons i is ih =>
    obtain ⟨u, rs', hu, hrest, rfl⟩ := exists_of_runInstrs_cons hrun
    obtain ⟨⟨hgated, hdata⟩, hplain⟩ := List.forall_mem_cons.1 hplain
    rcases exec_rsp hu with ⟨hrsp, -, hfault⟩ | ⟨d, hrsp, hd, hgood⟩
    · have hu' : u.Faulted := hfault.resolve_left (not_not_intro hf)
      exact .inr ⟨faulted_of_runInstrs_of_faulted (fun j hj => (hplain j hj).1) hu' hrest, ⟨true, 0⟩, by simp [hrsp], rfl⟩
    · have hu' : u.fcause = .noFault := by
        by_contra hne
        exact hgood ⟨hgated, .inr hne⟩
      obtain rfl : 0 = d := Option.some.inj ((hdata s).symm.trans hd)
      refine (ih hplain hu' hrest).imp (And.imp_right fun h => ?_) (And.imp_right fun ⟨r, hr, hflt⟩ => ?_)
      · simpa [hrsp] using h
      · exact ⟨r, by simp [hr], hflt⟩

end gated

/-- The commands of an encode are gated and return no data (R89). -/
theorem encodeTransaction_plain (bs : List Byte) :
    ∀ i ∈ encodeTransaction bs, alwaysLegal i = false ∧ ∀ u, answerData i u = some 0 := by
  simp only [encodeTransaction, List.mem_cons, List.mem_append, List.mem_map, List.not_mem_nil, or_false]
  rintro i (rfl | ⟨b, -, rfl⟩ | rfl) <;> exact ⟨rfl, fun _ => rfl⟩

end Sys2Proof.Machine
end

section
/-! A whole encode transaction against the pure functions (spec/41_encode.md R130). The invariant of the bytes pushed so far:
`RB` has the symbols of the whole groups, `GRP` the bits behind them. -/

namespace Sys2Proof.Machine

/-- Bits behind a bit string: the string, then from its end on the new bits. -/
theorem getD_append_bitsOf {n : Nat} (bits : Bits) (v : BitVec n) (k : Nat) :
    (bits ++ bitsOf v).getD k false = (bits.getD k false || (decide (bits.length ≤ k) && v.getMsbD (k - bits.length))) := by
  by_cases hk : bits.length ≤ k
  · simp only [List.getD_append_right _ _ _ _ hk, bitsOf_getD, List.getD_eq_default _ _ hk, hk, decide_true, Bool.true_and,
      Bool.false_or]
  · rw [List.getD_append _ _ _ _ (Nat.lt_of_not_le hk)]
    simp [hk]

/-- The symbols of a bit string are those it has with more bits behind it, as far as it goes. -/
theorem symbolAt_append {bits : Bits} {j : Nat} (more : Bits) (hj : 3 * j + 2 < bits.length) :
    symbolAt (bits ++ more) j = symbolAt bits j := by
  rw [symbolAt, List.getD_append _ _ _ _ (by omega), List.getD_append _ _ _ _ (by omega), List.getD_append _ _ _ _ hj,
    symbolAt]

/-- A symbol is its three bits. -/
theorem tripletOf_getMsbD (x : Sym) : tripletOf (x.getMsbD 0) (x.getMsbD 1) (x.getMsbD 2) = x := by
  revert x
  decide

/-- The bits of a symbol of a group, from the most significant down (R65). -/
theorem sym_getMsbD (g : Group) {j i : Nat} (hj : j < 8) (hi : i < 3) : (sym g j).getMsbD i = g.getMsbD (3 * j + i) := by
  have hplace : 21 - 3 * j + (3 - 1 - i) = 24 - 1 - (3 * j + i) := by omega
  have hbit : 3 - 1 - i < 3 := by omega
  have hgroup : 3 * j + i < 24 := by omega
  simp only [sym, BitVec.getMsbD, BitVec.getLsbD_extractLsb', hi, hplace, hbit, hgroup, decide_true, Bool.true_and]

/-- The symbols of a group whose bits stand behind `8q` symbols of a bit string are the next eight. -/
theorem sym_eq_symbolAt {g : Group} {bits : Bits} {q : Nat} (hg : ∀ k, g.getMsbD k = bits.getD (24 * q + k) false) {j : Nat}
    (hj : j < 8) : sym g j = symbolAt bits (8 * q + j) := by
  have hbit (i : Nat) (hi : i < 3) : (sym g j).getMsbD i = bits.getD (3 * (8 * q + j) + i) false := by
    rw [sym_getMsbD g hj hi, hg]
    congr 1
    omega
  rw [← tripletOf_getMsbD (sym g j), hbit 0 (by decide), hbit 1 (by decide), hbit 2 (by decide), symbolAt, Nat.add_zero]

/-- The place of a shifted byte in the group: eight bits behind `8n` zeros (R126). -/
theorem place_getMsbD (x : Byte) {n : BitVec 3} (hn : n.toNat ≤ 2) (k : Nat) :
    (place x n).getMsbD k = (decide (8 * n.toNat ≤ k) && x.getMsbD (k - 8 * n.toNat)) := by
  have hle : 24 - 8 ≤ k + (16 - 8 * n.toNat) ↔ 8 * n.toNat ≤ k := by omega
  have hsub : k + (16 - 8 * n.toNat) - (24 - 8) = k - 8 * n.toNat := by omega
  rw [place, if_pos hn, BitVec.getMsbD_shiftLeft, BitVec.getMsbD_setWidth]
  simp [hle, hsub]

namespace State

/-- The bits of the bytes `bs` shifted by the key (R120, R121). -/
def encodedBits (s : State) (bs : List Byte) : Bits := joinOctets (shift bs s.keyBytes)

@[simp] theorem encodedBits_length (s : State) (bs : List Byte) : (s.encodedBits bs).length = 8 * bs.length := by
  simp [encodedBits]

/-- One more byte gives eight more bits, those of the byte shifted by the key byte of its place. -/
theorem encodedBits_append_singleton (s : State) (bs : List Byte) (b : Byte) :
    s.encodedBits (bs ++ [b]) = s.encodedBits bs ++ bitsOf (shiftByte b (keyAt s.keyBytes bs.length)) := by
  rw [encodedBits, shift_append_singleton, joinOctets_append_singleton, encodedBits, shiftByte]

/-- The characters of the first `n` symbols of a bit string. -/
def charsOf (s : State) (bits : Bits) (n : Nat) : List Chr := (List.range n).map fun j => s.alphaRead (symbolAt bits j)

@[simp] theorem charsOf_length (s : State) (bits : Bits) (n : Nat) : (s.charsOf bits n).length = n := by
  simp [charsOf]

/-- The characters of all symbols of a bit string are its encoding (R123). -/
theorem encodeCharset_splitTriplets (s : State) (bits : Bits) :
    encodeCharset (splitTriplets bits) s.alphabet = s.charsOf bits ((bits.length + 2) / 3) := by
  simp only [encodeCharset, alphabet_getElem, splitTriplets_eq_map_symbolAt, List.map_map, charsOf, Function.comp_def]

/-- The first symbols do not depend on the bits behind them. -/
theorem charsOf_append (s : State) {bits : Bits} {n : Nat} (more : Bits) (hn : 3 * n ≤ bits.length) :
    s.charsOf (bits ++ more) n = s.charsOf bits n := by
  refine List.map_congr_left fun j hj => ?_
  have hj := List.mem_range.1 hj
  rw [symbolAt_append more (by omega)]

/-- Pushing symbols of the group that stands behind `8q` symbols of a bit string appends the next characters of it. -/
theorem charsOf_append_group (s : State) {g : Group} {bits : Bits} {q m : Nat}
    (hg : ∀ k, g.getMsbD k = bits.getD (24 * q + k) false) (hm : m ≤ 8) :
    s.charsOf bits (8 * q) ++ ((List.range m).map fun j => s.alphaRead (sym g j)) = s.charsOf bits (8 * q + m) := by
  rw [charsOf, charsOf, List.range_add, List.map_append, List.map_map]
  congr 1
  refine List.map_congr_left fun j hj => ?_
  have hj := List.mem_range.1 hj
  rw [sym_eq_symbolAt hg (by omega), Function.comp_apply]

/-- The key byte at an index that counts places modulo `KEYLEN` is the one of the place (R29, R120). -/
theorem keyRead_eq_keyAt {s : State} {k : BitVec 8} {n : Nat} (hkey : s.keylen ≠ 0) (hk : k.toNat = n % s.keylen.toNat) :
    s.keyRead k = keyAt s.keyBytes n := by
  have hlt : n % s.keylen.toNat < s.keylen.toNat := Nat.mod_lt _ (by bv_omega)
  have hlen : s.keyBytes.length = s.keylen.toNat := by simp [keyBytes]
  have hread : BitVec.ofNat 8 (n % s.keylen.toNat) = k := by rw [← hk, BitVec.ofNat_toNat, BitVec.setWidth_eq]
  have hentry : s.keyBytes[n % s.keyBytes.length]? = some (s.keyRead k) := by
    rw [hlen, keyBytes, List.getElem?_map, List.getElem?_range hlt, Option.map_some, hread]
  exact (keyAt_of_getElem? hentry).symm

/-- What an encode transaction opened in `s` has made of the bytes `bs`: the characters of the whole groups of three are in
`RB`, the bits behind them in `GRP`, and nothing is written that no encode writes. -/
structure Packed (s : State) (bs : List Byte) (u : State) : Prop where
  frame : u = { s with
    mode := .enc, rkind := .chars, grp := u.grp, gcnt := u.gcnt, kidx := u.kidx, rb := u.rb, rsp := u.rsp }
  kidx : u.kidx.toNat = bs.length % s.keylen.toNat
  gcnt : u.gcnt.toNat = bs.length % 3
  rb : u.rb = s.charsOf (s.encodedBits bs) (8 * (bs.length / 3))
  grp : ∀ k, u.grp.getMsbD k = (s.encodedBits bs).getD (24 * (bs.length / 3) + k) false

/-- An encode transaction opened in `s` is faulted, for want of room for the characters of the bytes `bs`. -/
structure Overflowed (s : State) (bs : List Byte) (u : State) : Prop where
  faulted : u.Faulted
  full : s.params.rbMax < (8 * bs.length + 2) / 3

/-- What a closed encode transaction leaves of the bytes `bs` (R130). -/
structure Encoded (s : State) (bs : List Byte) (t : State) : Prop where
  fcause : t.fcause = .noFault
  rb : t.rb = s.charsOf (s.encodedBits bs) ((8 * bs.length + 2) / 3)
  mode : t.mode = .done
  verdict : t.verdict = .ok
  rkind : t.rkind = .chars
  kidx : t.kidx.toNat = bs.length % s.keylen.toNat

/-- Behind the last bit of the bytes there is none. -/
theorem encodedBits_getD_of_le (s : State) {bs : List Byte} {k : Nat} (hk : 8 * bs.length ≤ k) :
    (s.encodedBits bs).getD k false = false :=
  List.getD_eq_default _ _ (by simpa using hk)

namespace Overflowed
variable {s u : State} {bs : List Byte} (h : s.Overflowed bs u)
include h

/-- The fault stays through the bytes that follow, and they want more room. -/
theorem encp {b : Byte} {v : State} (hv : exec (.encp b) u = .next v) : s.Overflowed (bs ++ [b]) v := by
  have hfull := h.full
  refine ⟨faulted_of_exec_of_faulted rfl h.faulted hv, ?_⟩
  rw [List.length_append, List.length_singleton]
  omega

theorem ence {t : State} (ht : exec .ence u = .next t) : s.Overflowed bs t :=
  ⟨faulted_of_exec_of_faulted rfl h.faulted ht, h.full⟩

end Overflowed

namespace Packed
variable {s u : State} {bs : List Byte} (h : s.Packed bs u)
include h

theorem params : u.params = s.params := (congrArg State.params h.frame :)

theorem fcause : u.fcause = s.fcause := (congrArg State.fcause h.frame :)

theorem mode : u.mode = .enc := congrArg State.mode h.frame

theorem keylen : u.keylen = s.keylen := (congrArg State.keylen h.frame :)

theorem alphaRead (i : Sym) : u.alphaRead i = s.alphaRead i := by rw [h.frame]; rfl

theorem keyRead (j : BitVec 8) : u.keyRead j = s.keyRead j := by rw [h.frame]; rfl

theorem rb_length : u.rb.length = 8 * (bs.length / 3) := by rw [h.rb, charsOf_length]

theorem gcnt_le : u.gcnt.toNat ≤ 2 := by rw [h.gcnt]; omega

/-- The group with one more byte in it holds the bits of that byte too (R126). -/
theorem encGroup_getMsbD (hkey : s.keylen ≠ 0) (b : Byte) (k : Nat) :
    (encGroup b u).getMsbD k = (s.encodedBits (bs ++ [b])).getD (24 * (bs.length / 3) + k) false := by
  have hgcnt := h.gcnt
  have hle : 8 * u.gcnt.toNat ≤ k ↔ 8 * bs.length ≤ 24 * (bs.length / 3) + k := by omega
  have hsub : k - 8 * u.gcnt.toNat = 24 * (bs.length / 3) + k - 8 * bs.length := by omega
  rw [encGroup, BitVec.getMsbD_or, h.grp, place_getMsbD _ h.gcnt_le, h.keyRead, keyRead_eq_keyAt hkey h.kidx,
    encodedBits_append_singleton, getD_append_bitsOf, encodedBits_length]
  simp only [hle, hsub]

/-- The characters of the whole groups stay with one more byte. -/
theorem charsOf_append_singleton (b : Byte) :
    s.charsOf (s.encodedBits (bs ++ [b])) (8 * (bs.length / 3)) = u.rb := by
  rw [h.rb, encodedBits_append_singleton, charsOf_append _ _ (by rw [encodedBits_length]; omega)]

/-- The next key index counts one more byte. -/
theorem nextKidx_toNat (hkey : s.keylen ≠ 0) (b : Byte) :
    (nextKidx u.kidx u.keylen).toNat = (bs ++ [b]).length % s.keylen.toNat := by
  rw [h.keylen, Machine.nextKidx_toNat _ hkey, h.kidx]
  simp

/-- `ENCP` packs one more byte, unless the group is full and there is no room for its characters (R126). -/
theorem encp (hf : s.fcause = .noFault) (hkey : s.keylen ≠ 0) {b : Byte} {v : State} (hv : exec (.encp b) u = .next v) :
    s.Overflowed (bs ++ [b]) v ∨ s.Packed (bs ++ [b]) v := by
  rw [exec_of_legal rfl (h.fcause.trans hf) h.mode] at hv
  obtain rfl : encpBody b u = v := Host.Outcome.next.inj hv
  have hgcnt := h.gcnt
  have hlen : (bs ++ [b]).length = bs.length + 1 := by simp
  by_cases h2 : u.gcnt.toNat = 2
  · have hdiv : (bs ++ [b]).length / 3 = bs.length / 3 + 1 := by omega
    by_cases hroom : u.rb.length + 8 ≤ u.params.rbMax
    · refine .inr ?_
      rw [encpBody_of_room b h2 hroom]
      refine ⟨by rw [h.frame]; rfl, h.nextKidx_toNat hkey b, ?_, ?_, fun k => ?_⟩
      · show 0 = _
        omega
      · have hgroup := s.charsOf_append_group (h.encGroup_getMsbD hkey b) (Nat.le_refl 8)
        rw [h.charsOf_append_singleton] at hgroup
        rw [hdiv, Nat.mul_succ]
        simpa [h.alphaRead] using hgroup
      · rw [encodedBits_getD_of_le _ (by omega)]
        exact BitVec.getMsbD_zero
    · rw [encpBody_of_no_room b (h.fcause.trans hf) h2 (Nat.lt_of_not_le hroom)]
      rw [h.rb_length, h.params] at hroom
      exact .inl ⟨by simp, by omega⟩
  · have hdiv : (bs ++ [b]).length / 3 = bs.length / 3 := by omega
    refine .inr ?_
    rw [encpBody_of_ne_two b h2]
    refine ⟨by rw [h.frame]; rfl, h.nextKidx_toNat hkey b, ?_, ?_, fun k => ?_⟩
    · show (u.gcnt + 1).toNat = _
      rw [gcnt_succ_toNat (by omega)]
      omega
    · rw [hdiv, h.charsOf_append_singleton]
      rfl
    · rw [hdiv]
      exact h.encGroup_getMsbD hkey b k

/-- `ENCE` flushes the characters of the bits that are left, unless there is no room for them (R127). -/
theorem ence (hf : s.fcause = .noFault) {t : State} (ht : exec .ence u = .next t) :
    s.Overflowed bs t ∨ s.Encoded bs t := by
  rw [exec_of_legal rfl (h.fcause.trans hf) h.mode] at ht
  obtain rfl : enceBody u = t := Host.Outcome.next.inj ht
  have hgcnt := h.gcnt
  have hflush := flushSymbols_eq h.gcnt_le
  have htotal : 8 * (bs.length / 3) + flushSymbols u.gcnt = (8 * bs.length + 2) / 3 := by omega
  by_cases hroom : u.rb.length + flushSymbols u.gcnt ≤ u.params.rbMax
  · rw [enceBody_of_room hroom]
    refine .inr ⟨h.fcause.trans hf, ?_, rfl, rfl, congrArg State.rkind h.frame, h.kidx⟩
    have hgroup := s.charsOf_append_group h.grp (show flushSymbols u.gcnt ≤ 8 by omega)
    rw [← h.rb, htotal] at hgroup
    simpa [h.alphaRead] using hgroup
  · rw [enceBody_of_no_room (h.fcause.trans hf) (Nat.lt_of_not_le hroom)]
    rw [h.rb_length, h.params, htotal] at hroom
    exact .inl ⟨by simp, Nat.lt_of_not_le hroom⟩

end Packed

section ready
variable {s : State} (hinv : s.Inv) (hready : s.Ready)
include hinv hready

/-- `ENCB` on a ready state opens a transaction with no byte in it (R125). -/
theorem packed_nil_of_exec_encb {u : State} (hu : exec .encb s = .next u) : s.Packed [] u := by
  obtain ⟨hm, hf, ha, hkey⟩ := hready
  obtain ⟨hgrp, hgcnt, hkidx, -, hrb, -, -⟩ := hinv.clear hm
  rw [exec_of_legal rfl hf hm] at hu
  obtain rfl : beginTransaction .enc .chars s = u := Host.Outcome.next.inj hu
  rw [beginTransaction_of_configured _ _ ha (by bv_omega)]
  refine ⟨rfl, ?_, ?_, hrb, fun k => ?_⟩
  · simp [hkidx]
  · simp [hgcnt]
  · rw [encodedBits_getD_of_le _ (by simp)]
    simp [hgrp]

/-- The bytes pushed are packed, or the result overflowed, when `ENCE` closes the transaction. -/
theorem encoded_of_runInstrs {bs : List Byte} {rs : List Response} {t : State}
    (hrun : runInstrs (encodeTransaction bs) s = .next (rs, t)) :
    s.Overflowed bs t ∨ s.Encoded bs t := by
  obtain ⟨-, hf, -, hlen⟩ := id hready
  have hkey : s.keylen ≠ 0 := by bv_omega
  have hstep (pre : List Byte) (b : Byte) (u v : State) (hpre : s.Overflowed pre u ∨ s.Packed pre u)
      (hv : exec (.encp b) u = .next v) : s.Overflowed (pre ++ [b]) v ∨ s.Packed (pre ++ [b]) v :=
    hpre.elim (fun h => .inl (h.encp hv)) fun h => h.encp hf hkey hv
  obtain ⟨u, h | h, ht⟩ := exists_of_runInstrs_transaction hstep
    (fun u hu => .inr (packed_nil_of_exec_encb hinv hready hu)) hrun
  · exact .inl (h.ence ht)
  · exact h.ence hf ht

/-- An encode transaction answers that all is well and leaves the encoded bytes, or it has no room for them and says so. -/
theorem encode_outcome {bs : List Byte} {rs : List Response} {t : State}
    (hrun : runInstrs (encodeTransaction bs) s = .next (rs, t)) :
    (s.Encoded bs t ∧ ∀ r ∈ rs, r = ⟨false, 0⟩) ∨
    (s.params.rbMax < (8 * bs.length + 2) / 3 ∧ ∃ r ∈ rs, r.flt = true) := by
  obtain ⟨-, hf, -, -⟩ := id hready
  rcases encoded_of_runInstrs hinv hready hrun with ⟨hfault, hover⟩ | h <;>
    rcases runInstrs_responses (encodeTransaction_plain bs) hf hrun with ⟨ht, hrs⟩ | ⟨ht, hrs⟩
  · exact absurd ht hfault
  · exact .inr ⟨hover, hrs⟩
  · exact .inl ⟨h, hrs⟩
  · exact absurd h.fcause ht

end ready

end State

/-- Settles O52: every run comes to its end, with the encoded bytes or with an overflow that a response tells. -/
theorem encodeTransactionLaw : Obligations.EncodeTransactionLaw := by
  unfold Obligations.EncodeTransactionLaw
  intro s bs hinv hready
  obtain ⟨rs, t, hrun⟩ := exists_runInstrs_eq_next (encodeTransaction bs) s
  refine ⟨rs, t, hrun, ?_⟩
  rcases State.encode_outcome hinv hready hrun with ⟨h, hrs⟩ | ⟨hover, r, hr, hflt⟩
  · have hrb := State.encodeCharset_splitTriplets s (s.encodedBits bs)
    rw [State.encodedBits_length, ← h.rb] at hrb
    exact ⟨fun _ => ⟨hrb.symm, h.mode, h.verdict, h.rkind, h.kidx⟩, fun _ => hrs⟩
  · exact ⟨fun hclean => absurd hflt (by simp [hclean r hr]), fun hroom => absurd hroom (Nat.not_le_of_lt hover)⟩

end Sys2Proof.Machine
end

section
/-! How many items a transaction leaves (spec/41_encode.md R129, 42_decode.md R151): of an encode by what it leaves, of a
decode by counting the characters found. -/

namespace Sys2Proof.Machine

namespace State

/-- How many of the characters are in the alphabet (R151). -/
def found (s : State) (cs : List Chr) : Nat := (cs.filter fun c => (s.lutMatch c).isSome).length

@[simp] theorem found_nil (s : State) : s.found [] = 0 := rfl

theorem found_append_of_none {s : State} (cs : List Chr) {c : Chr} (h : s.lutMatch c = none) :
    s.found (cs ++ [c]) = s.found cs := by
  simp [found, h]

theorem found_append_of_some {s : State} (cs : List Chr) {c : Chr} {i : Sym} (h : s.lutMatch c = some i) :
    s.found (cs ++ [c]) = s.found cs + 1 := by
  simp [found, h]

/-- The match reads the alphabet only. -/
theorem lutMatch_congr {s u : State} (h : u.alpha = s.alpha) (c : Chr) : u.lutMatch c = s.lutMatch c := by
  simp only [lutMatch, State.alphaRead, h]

/-- What a decode transaction opened in `s` has counted of the characters `cs`: three items for each whole group of eight
symbols, and the symbols behind it. -/
structure Counted (s : State) (cs : List Chr) (u : State) : Prop where
  fcause : u.fcause = .noFault
  mode : u.mode = .dec
  alpha : u.alpha = s.alpha
  gcnt : u.gcnt.toNat = s.found cs % 8
  items : u.rb.length = 3 * (s.found cs / 8)

end State

/-- `DECP` skips a character that is not in the alphabet (R147). -/
theorem decpBody_of_none {s : State} {c : Chr} (h : s.lutMatch c = none) : decpBody c s = s.ok := by
  simp [decpBody, h]

theorem decpBody_of_some {s : State} {c : Chr} {i : Sym} (h : s.lutMatch c = some i) : decpBody c s = decpFound i s := by
  simp [decpBody, h]

/-- `DECP` on a character found raises `ResultOverflow`, empties a full group into three items, or counts the symbol (R147). -/
theorem decpFound_cases (i : Sym) (s : State) :
    decpFound i s = s.raise .resultOverflow ∨
    (s.gcnt.toNat = 7 ∧ decpFound i s = ((s.emitBytes (decGroup i s) 3).setGroup 0 0).ok) ∨
    (s.gcnt.toNat ≤ 6 ∧ decpFound i s = (s.setGroup (decGroup i s) (s.gcnt + 1)).ok) := by
  unfold decpFound
  split
  next h7 =>
    split
    · exact .inl rfl
    · exact .inr (.inl ⟨by simp [h7], rfl⟩)
  next hne => exact .inr (.inr ⟨by bv_omega, rfl⟩)

/-- The verdict of a decode leaves the result, unless it raises `MalformedUtf8` (R148). -/
theorem giveVerdict_rb {s : State} (h : (giveVerdict s).fcause = .noFault) : (giveVerdict s).rb = s.rb := by
  unfold giveVerdict at h ⊢
  split_ifs at h ⊢ with hu hl
  · rfl
  · rfl
  · simp only [State.raise_fcause] at h
    split_ifs at h with hf
    exact absurd h hf

namespace State

/-- A fault taken leaves the machine faulted (R212, R213). -/
theorem raise_faulted (s : State) {c : FCause} (hc : c ≠ .noFault) : (s.raise c).Faulted := by
  by_cases h : s.fcause = .noFault <;> simp [h, hc]

/-- The checks that open a decode on a ready state pass, and no character is counted yet (R146). -/
theorem counted_nil_of_exec_decb {s u : State} (hinv : s.Inv) (hready : s.Ready) (hu : exec .decb s = .next u) :
    s.Counted [] u := by
  obtain ⟨hm, hf, ha, hlen⟩ := hready
  obtain ⟨-, hgcnt, -, -, hrb, -, -⟩ := hinv.clear hm
  rw [exec_of_legal rfl hf hm] at hu
  obtain rfl : beginTransaction .dec .bytes s = u := Host.Outcome.next.inj hu
  rw [beginTransaction_of_configured _ _ ha (by bv_omega)]
  exact ⟨hf, rfl, rfl, by simp [hgcnt], by simp [hrb]⟩

namespace Counted
variable {s u : State} {cs : List Chr} (h : s.Counted cs u)
include h

/-- `DECP` counts a character that is in the alphabet, or overflows (R147). -/
theorem decp {c : Chr} {v : State} (hv : exec (.decp c) u = .next v) : v.Faulted ∨ s.Counted (cs ++ [c]) v := by
  rw [exec_of_legal rfl h.fcause h.mode] at hv
  obtain rfl : decpBody c u = v := Host.Outcome.next.inj hv
  have hgcnt := h.gcnt
  have hmatch := lutMatch_congr h.alpha c
  cases hc : s.lutMatch c with
  | none =>
    rw [decpBody_of_none (hmatch.trans hc)]
    have hfound := found_append_of_none cs hc
    exact .inr ⟨h.fcause, h.mode, h.alpha, by rw [hfound]; exact h.gcnt, by rw [hfound]; exact h.items⟩
  | some i =>
    rw [decpBody_of_some (hmatch.trans hc)]
    have hfound := found_append_of_some cs hc
    rcases decpFound_cases i u with e | ⟨h7, e⟩ | ⟨h6, e⟩ <;> rw [e]
    · exact .inl (u.raise_faulted (by simp))
    · refine .inr ⟨by simpa using h.fcause, by simpa using h.mode, by simpa [emitBytes_frame] using h.alpha, ?_, ?_⟩
      · show 0 = _
        omega
      · simp only [ok_rb, setGroup_rb, emitBytes_frame, h.items]
        omega
    · refine .inr ⟨h.fcause, h.mode, h.alpha, ?_, ?_⟩
      · show (u.gcnt + 1).toNat = _
        rw [gcnt_succ_toNat h6]
        omega
      · show u.rb.length = _
        rw [h.items]
        omega

/-- `DECE` appends the whole bytes of the group, unless it raises a fault (R148). -/
theorem dece {t : State} (ht : exec .dece u = .next t) (hf : t.fcause = .noFault) : t.rb.length = 3 * s.found cs / 8 := by
  rw [exec_of_legal rfl h.fcause h.mode] at ht
  obtain rfl : deceBody u = t := Host.Outcome.next.inj ht
  have hgcnt := h.gcnt
  unfold deceBody at hf ⊢
  split_ifs at hf ⊢ with hroom
  · exact absurd hf (u.raise_faulted (by simp))
  · rw [giveVerdict_rb hf]
    simp only [setGroup_rb, emitBytes_frame, h.items, flushBytes]
    omega

end Counted

/-- A decode transaction that closes without fault leaves a byte for every eight bits of the characters found (R151). -/
theorem decode_rb_length {s t : State} {cs : List Chr} {rs : List Response} (hinv : s.Inv) (hready : s.Ready)
    (hrun : runInstrs (decodeTransaction cs) s = .next (rs, t)) (hf : t.fcause = .noFault) :
    t.rb.length = 3 * s.found cs / 8 := by
  have hstep (pre : List Chr) (c : Chr) (u v : State) (hpre : u.Faulted ∨ s.Counted pre u)
      (hv : exec (.decp c) u = .next v) : v.Faulted ∨ s.Counted (pre ++ [c]) v :=
    hpre.elim (fun hu => .inl (faulted_of_exec_of_faulted rfl hu hv)) fun h => h.decp hv
  obtain ⟨u, hu | h, ht⟩ := exists_of_runInstrs_transaction hstep
    (fun u hu => .inr (counted_nil_of_exec_decb hinv hready hu)) hrun
  · exact absurd hf (faulted_of_exec_of_faulted rfl hu ht)
  · exact h.dece ht hf

end State

/-- A number of whole triplets, by the remainder (R129). -/
theorem encode_length_by_remainder (n : Nat) : (8 * n + 2) / 3 = 8 * (n / 3) + [0, 3, 6].getD (n % 3) 0 := by
  have hn : n % 3 < 3 := Nat.mod_lt _ (by decide)
  interval_cases hr : n % 3 <;> simp <;> omega

/-- A number of whole octets, by the remainder (R151). -/
theorem decode_length_by_remainder (m : Nat) : 3 * m / 8 = 3 * (m / 8) + [0, 0, 0, 1, 1, 1, 2, 2].getD (m % 8) 0 := by
  have hm : m % 8 < 8 := Nat.mod_lt _ (by decide)
  interval_cases hr : m % 8 <;> simp <;> omega

/-- Settles O54: an encode leaves the symbols of its bits, a decode the whole bytes of its symbols; the rest is arithmetic. -/
theorem lengthLaws : Obligations.LengthLaws := by
  unfold Obligations.LengthLaws
  refine ⟨fun s bs rs t hinv hready hrun hclean => ?_, fun s cs rs t m hinv hready hm hrun hf => ?_, fun n => by omega⟩
  · rcases State.encode_outcome hinv hready hrun with ⟨h, -⟩ | ⟨-, r, hr, hflt⟩
    · have hlen : t.rb.length = (8 * bs.length + 2) / 3 := by rw [h.rb, State.charsOf_length]
      exact ⟨hlen, hlen.trans (encode_length_by_remainder _), by omega, by omega⟩
    · exact absurd hflt (by simp [hclean r hr])
  · obtain rfl : s.found cs = m := hm.symm
    have hlen := State.decode_rb_length hinv hready hrun hf
    exact ⟨hlen, hlen.trans (decode_length_by_remainder _)⟩

end Sys2Proof.Machine
end

section
/-! The pure functions of the decode path, bit by bit: the symbols joined and split again into bytes (spec/42_decode.md R141,
R142). -/

namespace Sys2Proof.Machine

/-- Values put one after the other are their widths together. -/
theorem flatMap_bitsOf_length {n : Nat} (xs : List (BitVec n)) : (xs.flatMap bitsOf).length = n * xs.length := by
  simp [Nat.mul_comm]

/-- The bits of value `j` stand from place `n * j` on, the most significant first (R141). -/
theorem flatMap_bitsOf_getElem? {n : Nat} {xs : List (BitVec n)} {j k : Nat} {x : BitVec n} (hx : xs[j]? = some x)
    (hk : k < n) : (xs.flatMap bitsOf)[n * j + k]? = some (x.getLsbD (n - 1 - k)) := by
  induction xs generalizing j with
  | nil => simp at hx
  | cons y ys ih =>
    rw [List.flatMap_cons]
    cases j with
    | zero =>
      obtain rfl : y = x := by simpa using hx
      rw [Nat.mul_zero, Nat.zero_add, List.getElem?_append_left (by simpa using hk)]
      simp [bitsOf, hk]
    | succ j =>
      have hplace : n * (j + 1) + k - n = n * j + k := by rw [Nat.mul_succ]; omega
      rw [List.getElem?_append_right (by rw [bitsOf_length, Nat.mul_succ]; omega), bitsOf_length, hplace]
      exact ih hx

@[simp] theorem joinTriplets_length (symbols : List Sym) :
    (joinTriplets symbols).length = 8 * (3 * symbols.length / 8) := by
  rw [joinTriplets, List.length_take, flatMap_bitsOf_length]
  omega

/-- Byte `i` of a bit string: bits `8i` to `8i + 7`, zero beyond the end (R142). -/
def octetAt (bits : Bits) (i : Nat) : Byte :=
  octetOf (bits.getD (8 * i) false) (bits.getD (8 * i + 1) false) (bits.getD (8 * i + 2) false)
    (bits.getD (8 * i + 3) false) (bits.getD (8 * i + 4) false) (bits.getD (8 * i + 5) false)
    (bits.getD (8 * i + 6) false) (bits.getD (8 * i + 7) false)

/-- The bits of a byte of a bit string, from the most significant down. -/
theorem octetAt_getMsbD (bits : Bits) (i : Nat) {k : Nat} (hk : k < 8) :
    (octetAt bits i).getMsbD k = bits.getD (8 * i + k) false := by
  simp only [octetAt, octetOf, BitVec.getMsbD_append]
  interval_cases k <;> simp

/-- A bit string without a whole byte has none to give (R142). -/
theorem splitOctets_of_length_lt {bits : Bits} (h : bits.length < 8) : splitOctets bits = [] := by
  unfold splitOctets
  split
  · simp only [List.length_cons] at h
    omega
  · rfl

/-- `splitOctets` gives the whole bytes of the bit string one after the other (R142). -/
theorem splitOctets_eq_map_octetAt (bits : Bits) :
    splitOctets bits = (List.range (bits.length / 8)).map (octetAt bits) := by
  induction bits using splitOctets.induct with
  | case1 a b c d e f g h rest ih =>
    have hlen : (a :: b :: c :: d :: e :: f :: g :: h :: rest).length / 8 = rest.length / 8 + 1 := by simp; omega
    rw [splitOctets, ih, hlen, List.range_succ_eq_map, List.map_cons, List.map_map]
    rfl
  | case2 bits hshort =>
    have hlen : bits.length < 8 := by
      match bits, hshort with
      | a :: b :: c :: d :: e :: f :: g :: h :: rest, hshort => exact (hshort a b c d e f g h rest rfl).elim
      | [], _ | [_], _ | [_, _], _ | [_, _, _], _ | [_, _, _, _], _ | [_, _, _, _, _], _ | [_, _, _, _, _, _], _
      | [_, _, _, _, _, _, _], _ => simp
    rw [splitOctets_of_length_lt hlen, Nat.div_eq_of_lt hlen, List.range_zero, List.map_nil]

@[simp] theorem splitOctets_length (bits : Bits) : (splitOctets bits).length = bits.length / 8 := by
  simp [splitOctets_eq_map_octetAt]

/-- The bytes of a bit string are those of its places, as far as they are whole. -/
theorem splitOctets_getElem? {bits : Bits} {i : Nat} {b : Byte} (hb : (splitOctets bits)[i]? = some b) :
    i < bits.length / 8 ∧ octetAt bits i = b := by
  rw [splitOctets_eq_map_octetAt, List.getElem?_map] at hb
  obtain ⟨j, hj, rfl⟩ := Option.map_eq_some_iff.1 hb
  obtain ⟨hi, rfl⟩ := List.getElem?_eq_some_iff.1 hj
  rw [List.length_range] at hi
  rw [List.getElem_range]
  exact ⟨hi, rfl⟩

/-- Settles O47: a cut on the right leaves the bits before it in their places, and a whole byte has its eight. -/
theorem unpackerBitFields : Obligations.UnpackerBitFields := by
  unfold Obligations.UnpackerBitFields
  refine ⟨fun symbols => ⟨joinTriplets_length symbols, fun j k x hx hk hcut => ?_⟩,
    fun bits => ⟨splitOctets_length bits, fun i k b hb hk => ?_⟩⟩
  · rw [joinTriplets, List.getElem?_take_of_lt hcut]
    exact flatMap_bitsOf_getElem? hx hk
  · obtain ⟨hi, rfl⟩ := splitOctets_getElem? hb
    have hplace : 8 * i + k < bits.length := by omega
    have hbit := octetAt_getMsbD bits i hk
    rw [BitVec.getMsbD, decide_eq_true hk, Bool.true_and, List.getD_eq_getElem _ _ hplace] at hbit
    rw [List.getElem?_eq_getElem hplace, ← hbit]

end Sys2Proof.Machine
end

section
/-! The decode commands (spec/42_decode.md R144 to R148). -/

namespace Sys2Proof

/-- The word of `DECP` as a number (R147). -/
theorem encode_decp_toNat (ch : Chr) : (encode (.decp ch)).toNat = 0xC0000000 + ch.toNat := by
  simp only [encode, toNat_append_eq_add, BitVec.toNat_ofNat]
  omega

namespace Machine

/-- Settles O22: the arithmetic of the statement fixes the plain byte and the next index. -/
theorem emitByteUnshifts : Obligations.EmitByteUnshifts := by
  unfold Obligations.EmitByteUnshifts
  refine ⟨fun s x p k hkey hp hk => ?_, fun g n s => ⟨s.emitBytes_zero g, s.emitBytes_succ g n⟩⟩
  obtain rfl : unshiftByte x (s.keyRead s.kidx) = p := by
    refine BitVec.eq_of_toNat_eq ((BitVec.toNat_sub _ _).trans (Eq.trans ?_ hp.symm))
    rw [Nat.add_comm]
  obtain rfl : nextKidx s.kidx s.keylen = k := BitVec.eq_of_toNat_eq ((nextKidx_toNat _ hkey).trans hk.symm)
  rfl

/-- Settles O23: `DECB` writes the mode and the kind of the items, or raises the fault of the first check that fails. -/
theorem decbOpensDecode : Obligations.DecbOpensDecode := by
  unfold Obligations.DecbOpensDecode
  refine ⟨rfl, fun s hf => ⟨fun hm ha hk => ?_, fun hm ha => ?_, fun hm ha hk => ?_, exec_of_wrong_mode rfl hf,
    fun h hm => ?_⟩⟩
  · exact (exec_of_legal rfl hf hm).trans (congrArg _ (beginTransaction_of_configured .dec .bytes ha hk))
  · exact (exec_encb_decb_of_unchecked hf hm ha).2
  · exact (exec_encb_decb_of_keyless hf hm ha hk).2
  · obtain ⟨hgrp, hgcnt, hkidx, hu, hrb, -, -⟩ := h.idleIsClear hm
    exact ⟨hu, hkidx, hgrp, hgcnt, hrb⟩

namespace State

/-- No entry below a match is equal to the character: the search goes from the lowest up (R144). -/
theorem alphaRead_ne_of_lt_lutMatch {s : State} {ch : Chr} {i j : Sym} (h : s.lutMatch ch = some i)
    (hj : j.toNat < i.toNat) : s.alphaRead j ≠ ch := by
  have hentry : ∀ k : Sym, [0#3, 1#3, 2#3, 3#3, 4#3, 5#3, 6#3, 7#3][k.toNat]'k.isLt = k := by decide
  have hplace : ∀ n (hn : n < 8), ([0#3, 1#3, 2#3, 3#3, 4#3, 5#3, 6#3, 7#3][n]'hn).toNat = n := by decide
  obtain ⟨-, n, hn, rfl, hbelow⟩ := List.find?_eq_some_iff_getElem.1 h
  have hskip := hbelow j.toNat (hplace n hn ▸ hj)
  rw [hentry] at hskip
  simpa using hskip

/-- A match is the lowest entry equal to the character (R144). -/
theorem lutMatch_eq_some_iff {s : State} {ch : Chr} {i : Sym} :
    s.lutMatch ch = some i ↔ s.alphaRead i = ch ∧ ∀ j : Sym, j.toNat < i.toNat → s.alphaRead j ≠ ch := by
  refine ⟨fun h => ⟨alphaRead_of_lutMatch h, fun _ => alphaRead_ne_of_lt_lutMatch h⟩, fun ⟨hi, hbelow⟩ => ?_⟩
  cases h : s.lutMatch ch with
  | none => exact absurd hi (lutMatch_eq_none.1 h i)
  | some k =>
    have hki : ¬ k.toNat < i.toNat := fun hlt => hbelow k hlt (alphaRead_of_lutMatch h)
    have hik : ¬ i.toNat < k.toNat := fun hlt => alphaRead_ne_of_lt_lutMatch h hlt hi
    rw [BitVec.eq_of_toNat_eq (Nat.le_antisymm (Nat.le_of_not_lt hik) (Nat.le_of_not_lt hki))]

/-- Inside a transaction no two entries of the alphabet are equal (R40 item 2). -/
theorem R40.alphaRead_injective {s : State} (h : s.R40) (hm : s.mode ≠ .idle) {i j : Sym}
    (heq : s.alphaRead i = s.alphaRead j) : i = j := by
  obtain ⟨-, -, -, hdist⟩ := h.transactionIsConfigured hm
  have hne := s.checkCharset_alphabet_iff.1 ((checkCharset_eq_true_iff _).2 ⟨by simp, hdist⟩)
  rcases Nat.lt_trichotomy i.toNat j.toNat with hij | hij | hij
  · exact absurd heq (hne i j hij)
  · exact BitVec.eq_of_toNat_eq hij
  · exact absurd heq.symm (hne j i hij)

end State

/-- Settles O24: the match is the lowest equal entry, and R40 leaves one at most. -/
theorem lutMatchFindsTheEntry : Obligations.LutMatchFindsTheEntry := by
  unfold Obligations.LutMatchFindsTheEntry
  refine fun s ch => ⟨fun i => State.lutMatch_eq_some_iff.1, State.lutMatch_eq_none, fun h hm i j hi hj => ?_⟩
  exact h.alphaRead_injective hm (hj.trans (State.alphaRead_of_lutMatch hi).symm)

section decp
variable {s : State} (i : Sym)

/-- The first seven symbols of a group append nothing (R147). -/
theorem decpFound_of_lt (h : s.gcnt.toNat < 7) : decpFound i s = (s.setGroup (decGroup i s) (s.gcnt + 1)).ok :=
  if_neg fun h7 => absurd h (by simp [h7])

/-- The eighth symbol empties the group into three plain bytes, if there is room (R147). -/
theorem decpFound_of_room (h : s.gcnt.toNat = 7) (hroom : s.rb.length + 3 ≤ s.params.rbMax) :
    decpFound i s = ((s.emitBytes (decGroup i s) 3).setGroup 0 0).ok := by
  have hgcnt : s.gcnt = 7 := BitVec.eq_of_toNat_eq h
  rw [decpFound, if_pos hgcnt, if_neg (by simp [State.hasRoom_eq_true.2 hroom])]

/-- The eighth symbol raises `ResultOverflow`, if there is no room (R147). -/
theorem decpFound_of_no_room (hf : s.fcause = .noFault) (h : s.gcnt.toNat = 7)
    (hroom : s.params.rbMax < s.rb.length + 3) :
    decpFound i s = { s with fcause := .resultOverflow, rsp := some ⟨true, 0⟩ } := by
  have hgcnt : s.gcnt = 7 := BitVec.eq_of_toNat_eq h
  rw [decpFound, if_pos hgcnt, if_pos (State.hasRoom_eq_false.2 hroom), State.raise_of_noFault _ hf]

end decp

/-- Settles O25: the match decides between a skip and a symbol, the count of the group and the room what the symbol does. -/
theorem decpMatchesAndUnpacks : Obligations.DecpMatchesAndUnpacks := by
  unfold Obligations.DecpMatchesAndUnpacks
  refine ⟨fun ch s => ⟨encode_decp_toNat ch, exec_of_wrong_mode rfl, fun hf hm hnone => ?_⟩,
    fun ch i g s hf hm hi hbelow hg => ?_⟩
  · exact (exec_of_legal rfl hf hm).trans (congrArg _ (decpBody_of_none (State.lutMatch_eq_none.2 hnone)))
  · obtain rfl : decGroup i s = g := hg.symm
    have hmatch : s.lutMatch ch = some i := State.lutMatch_eq_some_iff.2 ⟨hi, hbelow⟩
    have hexec : exec (.decp ch) s = .next (decpFound i s) :=
      (exec_of_legal rfl hf hm).trans (congrArg _ (decpBody_of_some hmatch))
    refine ⟨fun h => ?_, fun h hroom => ?_, fun h hroom => ?_⟩
    · exact hexec.trans (congrArg _ (decpFound_of_lt i h))
    · exact hexec.trans (congrArg _ (decpFound_of_room i h hroom))
    · exact hexec.trans (congrArg _ (decpFound_of_no_room i hf h hroom))

section dece
variable {s : State}

/-- With room `DECE` flushes the whole bytes, empties the group, closes the transaction and takes the verdict (R148). -/
theorem deceBody_of_room (hroom : s.rb.length + flushBytes s.gcnt ≤ s.params.rbMax) :
    deceBody s = giveVerdict { ((s.emitBytes s.grp (flushBytes s.gcnt)).setGroup 0 0) with mode := .done } :=
  if_neg (by simp [State.hasRoom_eq_true.2 hroom])

/-- `DECE` raises `ResultOverflow`, if there is no room (R148). -/
theorem deceBody_of_no_room (hf : s.fcause = .noFault) (hroom : s.params.rbMax < s.rb.length + flushBytes s.gcnt) :
    deceBody s = { s with fcause := .resultOverflow, rsp := some ⟨true, 0⟩ } :=
  (if_pos (State.hasRoom_eq_false.2 hroom)).trans (State.raise_of_noFault _ hf)

/-- Valid UTF-8 is `OK`, with the flag or without it (R148). -/
theorem giveVerdict_of_s0 (hu : s.u8 = .s0) : giveVerdict s = ({ s with verdict := .ok } : State).ok := if_pos hu

/-- With the flag bytes that are no valid UTF-8 are kept (R148). -/
theorem giveVerdict_of_legacy (hu : s.u8 ≠ .s0) (hl : s.legacy = true) :
    giveVerdict s = ({ s with verdict := .legacy } : State).ok :=
  (if_neg hu).trans (if_pos hl)

/-- Without the flag bytes that are no valid UTF-8 are given up, and the fault is recorded (R148). -/
theorem giveVerdict_of_malformed (hu : s.u8 ≠ .s0) (hl : s.legacy = false) (hf : s.fcause = .noFault) :
    giveVerdict s = { s with rb := [], verdict := .malformed, fcause := .malformedUtf8, rsp := some ⟨true, 0⟩ } := by
  rw [giveVerdict, if_neg hu, if_neg (by simp [hl])]
  exact State.raise_of_noFault _ hf

end dece

/-- Settles O26: the room decides whether `DECE` closes the transaction, `U8` and `LEGACY` after the last byte the verdict. -/
theorem deceGivesTheVerdict : Obligations.DeceGivesTheVerdict := by
  unfold Obligations.DeceGivesTheVerdict
  refine ⟨rfl, fun s hf => exec_of_wrong_mode rfl hf, fun s t m hf hm hm' ht => ?_⟩
  obtain rfl : flushBytes s.gcnt = m := hm'.symm
  obtain rfl : s.emitBytes s.grp (flushBytes s.gcnt) = t := ht.symm
  have hexec : exec .dece s = .next (deceBody s) := exec_of_legal rfl hf hm
  refine ⟨fun hroom => ?_, fun hroom hu => ?_, fun hroom hu hl => ?_, fun hroom hu hl => ?_⟩
  · exact hexec.trans (congrArg _ (deceBody_of_no_room hf hroom))
  · exact hexec.trans (congrArg _ ((deceBody_of_room hroom).trans (giveVerdict_of_s0 hu)))
  · have hl' : (s.emitBytes s.grp (flushBytes s.gcnt)).legacy = true := by simpa only [State.emitBytes_frame] using hl
    exact hexec.trans (congrArg _ ((deceBody_of_room hroom).trans (giveVerdict_of_legacy hu hl')))
  · have hl' : (s.emitBytes s.grp (flushBytes s.gcnt)).legacy = false := by simpa only [State.emitBytes_frame] using hl
    have hf' : (s.emitBytes s.grp (flushBytes s.gcnt)).fcause = .noFault := by simpa using hf
    exact hexec.trans (congrArg _ ((deceBody_of_room hroom).trans (giveVerdict_of_malformed hu hl' hf')))

end Machine

end Sys2Proof
end

section
/-! What the UTF-8 machine decides (spec/43_utf8.md R160, R162): its states are the ranges that a started character still
expects, and a byte takes the first of them away. -/

namespace Sys2Proof.Machine

/-- What a row still expects after the byte `p`, if it expects `p` first. -/
def afterByte (p : Byte) : List (Byte × Byte) → Option (List (Byte × Byte))
  | [] => none
  | r :: row => if r.1 ≤ p ∧ p ≤ r.2 then some row else none

/-- A sequence matches a row byte by byte. -/
theorem matchesRow_cons_iff {p : Byte} {ps : List Byte} {row : List (Byte × Byte)} :
    matchesRow (p :: ps) row = true ↔ ∃ rest, afterByte p row = some rest ∧ matchesRow ps rest = true := by
  cases row with
  | nil => simp [matchesRow, afterByte]
  | cons r row => simp [matchesRow, afterByte]

/-- The empty sequence matches the empty row only. -/
theorem matchesRow_nil_iff {row : List (Byte × Byte)} : matchesRow [] row = true ↔ row = [] := by
  cases row <;> simp [matchesRow]

/-- The ranges of the bytes that the character started still expects; none in `BAD` (R161). -/
def U8.expects : U8 → Option (List (Byte × Byte))
  | .s0 => some []
  | .s1 => some [(0x80, 0xBF)]
  | .s2 => some [(0x80, 0xBF), (0x80, 0xBF)]
  | .s3 => some [(0x80, 0xBF), (0x80, 0xBF), (0x80, 0xBF)]
  | .se0 => some [(0xA0, 0xBF), (0x80, 0xBF)]
  | .sed => some [(0x80, 0x9F), (0x80, 0xBF)]
  | .sf0 => some [(0x90, 0xBF), (0x80, 0xBF), (0x80, 0xBF)]
  | .sf4 => some [(0x80, 0x8F), (0x80, 0xBF), (0x80, 0xBF)]
  | .bad => none

/-- Only `S0` is between two characters. -/
theorem U8.expects_eq_nil_iff {u : U8} : u.expects = some [] ↔ u = .s0 := by
  cases u <;> simp [U8.expects]

theorem expects_u8Cont (lo hi p : Byte) (next : U8) :
    (u8Cont lo hi next p).expects = if lo ≤ p ∧ p ≤ hi then next.expects else none :=
  apply_ite U8.expects _ _ _

/-- A byte takes a waiting state to what it expects after the byte (R162). -/
theorem expects_u8Next {u : U8} (hu : u ≠ .s0) (p : Byte) : (u8Next u p).expects = u.expects.bind (afterByte p) := by
  cases u with
  | s0 => exact absurd rfl hu
  | bad => rfl
  | s1 | s2 | s3 | se0 | sed | sf0 | sf4 => exact expects_u8Cont _ _ p _

/-- The first byte of a character takes the machine to the rest of the one row that has it (R160, R162). -/
theorem expects_u8Lead (p : Byte) : (u8Lead p).expects.toList = utf8Table.filterMap (afterByte p) := by
  revert p
  decide

/-- After its first byte a character of a row of the table expects the rest of the row. -/
theorem expects_u8Lead_eq_some_iff {p : Byte} {rest : List (Byte × Byte)} :
    (u8Lead p).expects = some rest ↔ ∃ row ∈ utf8Table, afterByte p row = some rest := by
  rw [← Option.mem_toList, expects_u8Lead, List.mem_filterMap]

/-- What a state expects takes it back to `S0`. -/
theorem foldl_u8Next_of_matchesRow {u : U8} {row : List (Byte × Byte)} {q : List Byte} (hu : u.expects = some row)
    (hq : matchesRow q row = true) : q.foldl u8Next u = .s0 := by
  induction q generalizing u row with
  | nil =>
    obtain rfl := matchesRow_nil_iff.1 hq
    exact U8.expects_eq_nil_iff.1 hu
  | cons p q ih =>
    obtain ⟨rest, hrest, hq⟩ := matchesRow_cons_iff.1 hq
    have hwait : u ≠ .s0 := by
      rintro rfl
      obtain rfl := Option.some.inj hu
      cases hrest
    exact ih (by rw [expects_u8Next hwait, hu, Option.bind_some, hrest]) hq

/-- A character of the table takes the machine from `S0` to `S0`. -/
theorem foldl_u8Next_of_mem_table {row : List (Byte × Byte)} (hrow : row ∈ utf8Table) {q : List Byte}
    (hq : matchesRow q row = true) : q.foldl u8Next .s0 = .s0 := by
  cases q with
  | nil =>
    obtain rfl := matchesRow_nil_iff.1 hq
    exact absurd hrow (by decide)
  | cons p q =>
    obtain ⟨rest, hrest, hq⟩ := matchesRow_cons_iff.1 hq
    exact foldl_u8Next_of_matchesRow (u := u8Lead p) (expects_u8Lead_eq_some_iff.2 ⟨row, hrow, hrest⟩) hq

theorem utf8Valid_nil : utf8Valid [] := ⟨[], by simp, rfl⟩

/-- A character of the table before valid UTF-8 is valid UTF-8 (R160). -/
theorem utf8Valid_append {row : List (Byte × Byte)} (hrow : row ∈ utf8Table) {q P : List Byte}
    (hq : matchesRow q row = true) (hP : utf8Valid P) : utf8Valid (q ++ P) := by
  obtain ⟨qs, hqs, rfl⟩ := hP
  exact ⟨q :: qs, List.forall_mem_cons.2 ⟨⟨row, hrow, hq⟩, hqs⟩, rfl⟩

/-- A byte sequence that takes a state to `S0` is what the state expects, then valid UTF-8. -/
theorem exists_of_foldl_u8Next_eq_s0 {u : U8} {P : List Byte} (h : P.foldl u8Next u = .s0) :
    ∃ row q rest, u.expects = some row ∧ matchesRow q row = true ∧ utf8Valid rest ∧ q ++ rest = P := by
  induction P generalizing u with
  | nil =>
    obtain rfl : u = .s0 := h
    exact ⟨[], [], [], rfl, rfl, utf8Valid_nil, rfl⟩
  | cons p P ih =>
    obtain ⟨row, q, rest, hrow, hq, hrest, rfl⟩ := ih h
    by_cases hu : u = .s0
    · subst hu
      obtain ⟨row', hmem, hafter⟩ := expects_u8Lead_eq_some_iff.1 hrow
      have hchar : matchesRow (p :: q) row' = true := matchesRow_cons_iff.2 ⟨row, hafter, hq⟩
      exact ⟨[], [], p :: (q ++ rest), rfl, rfl, utf8Valid_append hmem hchar hrest, rfl⟩
    · rw [expects_u8Next hu] at hrow
      obtain ⟨row', hrow', hafter⟩ := Option.bind_eq_some_iff.1 hrow
      exact ⟨row', p :: q, rest, hrow', matchesRow_cons_iff.2 ⟨row, hafter, hq⟩, hrest, rfl⟩

/-- The machine ends in `S0` exactly on valid UTF-8 (R168). -/
theorem u8Run_eq_s0_iff (P : List Byte) : u8Run P = .s0 ↔ utf8Valid P := by
  constructor
  · intro h
    obtain ⟨row, q, rest, hrow, hq, hrest, rfl⟩ := exists_of_foldl_u8Next_eq_s0 h
    obtain rfl := Option.some.inj hrow
    cases q with
    | nil => exact hrest
    | cons p q => cases hq
  · rintro ⟨qs, hqs, rfl⟩
    induction qs with
    | nil => rfl
    | cons q qs ih =>
      obtain ⟨⟨row, hrow, hq⟩, hqs⟩ := List.forall_mem_cons.1 hqs
      rw [u8Run, List.flatten_cons, List.foldl_append, foldl_u8Next_of_mem_table hrow hq]
      exact ih hqs

/-- One more byte is one more transition. -/
theorem u8Run_append_singleton (P : List Byte) (p : Byte) : u8Run (P ++ [p]) = u8Next (u8Run P) p := by
  simp [u8Run]

end Sys2Proof.Machine
end

section
/-! A whole decode transaction against the pure functions (spec/42_decode.md R152). The invariant of the characters pushed so
far: `RB` has the plain bytes of the whole groups, `GRP` the bits behind them. -/

namespace Sys2Proof.Machine

/-- The bytes of a bit string are those it has with more bits behind it, as far as they are whole. -/
theorem octetAt_append {bits : Bits} {i : Nat} (more : Bits) (hi : 8 * i + 8 ≤ bits.length) :
    octetAt (bits ++ more) i = octetAt bits i := by
  refine BitVec.eq_of_getMsbD_eq fun k hk => ?_
  rw [octetAt_getMsbD _ _ hk, octetAt_getMsbD _ _ hk, List.getD_append _ _ _ _ (by omega)]

/-- A byte of the group, from its most significant bit down (R65). -/
theorem groupByte_getMsbD (g : Group) {j k : Nat} (hj : j < 3) (hk : k < 8) :
    (groupByte g j).getMsbD k = g.getMsbD (8 * j + k) := by
  have hplace : 16 - 8 * j + (8 - 1 - k) = 24 - 1 - (8 * j + k) := by omega
  have hbit : 8 - 1 - k < 8 := by omega
  have hgroup : 8 * j + k < 24 := by omega
  simp only [groupByte, BitVec.getMsbD, BitVec.getLsbD_extractLsb', hk, hplace, hbit, hgroup, decide_true, Bool.true_and]

/-- The bytes of a group whose bits stand behind `3q` bytes of a bit string are the next three. -/
theorem groupByte_eq_octetAt {g : Group} {bits : Bits} {q : Nat} (hg : ∀ k, g.getMsbD k = bits.getD (24 * q + k) false)
    {j : Nat} (hj : j < 3) : groupByte g j = octetAt bits (3 * q + j) := by
  refine BitVec.eq_of_getMsbD_eq fun k hk => ?_
  have hplace : 24 * q + (8 * j + k) = 8 * (3 * q + j) + k := by omega
  rw [groupByte_getMsbD g hj hk, hg, octetAt_getMsbD _ _ hk, hplace]

/-- The place of a symbol in the group: three bits behind `3n` zeros (R147). -/
theorem placeSym_getMsbD (x : Sym) (n : BitVec 3) (k : Nat) :
    (placeSym x n).getMsbD k = (decide (3 * n.toNat ≤ k) && x.getMsbD (k - 3 * n.toNat)) := by
  have hn := n.isLt
  have hle : 24 - 3 ≤ k + (21 - 3 * n.toNat) ↔ 3 * n.toNat ≤ k := by omega
  have hsub : k + (21 - 3 * n.toNat) - (24 - 3) = k - 3 * n.toNat := by omega
  rw [placeSym, BitVec.getMsbD_shiftLeft, BitVec.getMsbD_setWidth]
  simp [hle, hsub]

/-- The bytes of the symbols: the cut to whole bytes takes none away (R141, R142). -/
theorem splitOctets_joinTriplets (symbols : List Sym) :
    splitOctets (joinTriplets symbols) = (List.range (3 * symbols.length / 8)).map (octetAt (symbols.flatMap bitsOf)) := by
  rw [splitOctets_eq_map_octetAt, joinTriplets_length, Nat.mul_div_cancel_left _ (by decide)]
  refine List.map_congr_left fun i hi => ?_
  have hi := List.mem_range.1 hi
  have hcut := List.take_append_drop (8 * (3 * symbols.length / 8)) (symbols.flatMap bitsOf)
  rw [← octetAt_append ((symbols.flatMap bitsOf).drop (8 * (3 * symbols.length / 8)))
    (by rw [joinTriplets_length]; omega), joinTriplets, hcut]

/-- A gated command on a faulted machine keeps the cause (R213, R214). -/
theorem fcause_of_exec_of_faulted {i : Instr} {s t : State} (hi : alwaysLegal i = false) (hf : s.Faulted)
    (h : exec i s = .next t) : t.fcause = s.fcause := by
  rcases exec_cases h with ⟨hg, -⟩ | ⟨m, -, -, rfl⟩ | ⟨m, -, hf', -⟩ | ⟨m, -, hf', -⟩
  · simp [(alwaysLegal_eq_true_iff i).2 hg] at hi
  · rfl
  · exact absurd hf' hf
  · exact absurd hf' hf

namespace State

/-- The bits of the symbols of those characters `cs` that are in the alphabet (R140, R141). -/
def decodedBits (s : State) (cs : List Chr) : Bits := (decodeCharset cs s.alphabet).flatMap bitsOf

/-- The characters found are those that `decodeCharset` keeps (R140, R151). -/
theorem decodeCharset_length (s : State) (cs : List Chr) : (decodeCharset cs s.alphabet).length = s.found cs := by
  simp only [found, decodeCharset, List.length_filterMap_eq_countP, List.countP_eq_length_filter, lutMatch_eq_indexIn]

@[simp] theorem decodedBits_length (s : State) (cs : List Chr) : (s.decodedBits cs).length = 3 * s.found cs := by
  rw [decodedBits, flatMap_bitsOf_length, decodeCharset_length]

theorem decodedBits_append_of_none {s : State} (cs : List Chr) {c : Chr} (h : s.lutMatch c = none) :
    s.decodedBits (cs ++ [c]) = s.decodedBits cs := by
  simp [decodedBits, decodeCharset, ← lutMatch_eq_indexIn, h]

theorem decodedBits_append_of_some {s : State} (cs : List Chr) {c : Chr} {i : Sym} (h : s.lutMatch c = some i) :
    s.decodedBits (cs ++ [c]) = s.decodedBits cs ++ bitsOf i := by
  simp [decodedBits, decodeCharset, ← lutMatch_eq_indexIn, h]

theorem found_le_append (s : State) (cs : List Chr) (c : Chr) : s.found cs ≤ s.found (cs ++ [c]) := by
  simp [found]

/-- The first `n` plain bytes of a bit string: each byte unshifted by the key byte of its place (R142, R143). -/
def plainOf (s : State) (bits : Bits) (n : Nat) : List Byte :=
  (List.range n).map fun i => unshiftByte (octetAt bits i) (keyAt s.keyBytes i)

@[simp] theorem plainOf_length (s : State) (bits : Bits) (n : Nat) : (s.plainOf bits n).length = n := by
  simp [plainOf]

theorem plainOf_succ (s : State) (bits : Bits) (n : Nat) :
    s.plainOf bits (n + 1) = s.plainOf bits n ++ [unshiftByte (octetAt bits n) (keyAt s.keyBytes n)] := by
  simp [plainOf, List.range_succ]

/-- The first plain bytes do not depend on the bits behind them. -/
theorem plainOf_append (s : State) {bits : Bits} {n : Nat} (more : Bits) (hn : 8 * n ≤ bits.length) :
    s.plainOf (bits ++ more) n = s.plainOf bits n := by
  refine List.map_congr_left fun i hi => ?_
  have hi := List.mem_range.1 hi
  rw [octetAt_append more (by omega)]

/-- The plain bytes of all symbols are the decoding of the characters (R140 to R143). -/
theorem unshift_splitOctets_joinTriplets (s : State) (cs : List Chr) :
    unshift (splitOctets (joinTriplets (decodeCharset cs s.alphabet))) s.keyBytes =
      s.plainOf (s.decodedBits cs) (3 * s.found cs / 8) := by
  rw [splitOctets_joinTriplets, decodeCharset_length, unshift_eq_mapIdx]
  refine List.ext_getElem (by simp) fun i hi hi' => ?_
  simp [plainOf, unshiftByte, decodedBits]

/-- What a decode transaction opened in `s` has made of the first `n` bytes of a bit string: the plain bytes are in `RB`,
`KIDX` and `U8` have gone on with them, and nothing is written that no decode writes before its end. -/
structure Emitted (s : State) (bits : Bits) (n : Nat) (u : State) : Prop where
  frame : u = { s with
    mode := .dec, rkind := .bytes, grp := u.grp, gcnt := u.gcnt, kidx := u.kidx, u8 := u.u8, rb := u.rb, rsp := u.rsp }
  kidx : u.kidx.toNat = n % s.keylen.toNat
  u8 : u.u8 = u8Run (s.plainOf bits n)
  rb : u.rb = (s.plainOf bits n).map zext21

/-- What a decode transaction opened in `s` has made of the characters `cs`: the bytes of the whole groups of eight symbols
are emitted, the bits behind them are in `GRP`. -/
structure Unpacked (s : State) (cs : List Chr) (u : State) : Prop
    extends s.Emitted (s.decodedBits cs) (3 * (s.found cs / 8)) u where
  gcnt : u.gcnt.toNat = s.found cs % 8
  grp : ∀ k, u.grp.getMsbD k = (s.decodedBits cs).getD (24 * (s.found cs / 8) + k) false

/-- A decode transaction opened in `s` is faulted, for want of room for the bytes of the characters `cs`. -/
structure DecodeOverflowed (s : State) (cs : List Chr) (u : State) : Prop where
  cause : u.fcause = .resultOverflow
  full : s.params.rbMax < 3 * s.found cs / 8

/-- What a closed decode transaction leaves of the plain bytes `P` (R152). -/
structure Decoded (s : State) (P : List Byte) (t : State) : Prop where
  valid : utf8Valid P → t.rb = P.map zext21 ∧ t.verdict = .ok ∧ t.fcause = .noFault
  legacy : ¬ utf8Valid P → s.legacy = true → t.rb = P.map zext21 ∧ t.verdict = .legacy ∧ t.fcause = .noFault
  malformed : ¬ utf8Valid P → s.legacy = false → t.rb = [] ∧ t.verdict = .malformed ∧ t.fcause = .malformedUtf8
  mode : t.mode = .done
  rkind : t.rkind = .bytes
  kidx : t.kidx.toNat = P.length % s.keylen.toNat

namespace Emitted
variable {s u : State} {bits : Bits} {n : Nat} (h : s.Emitted bits n u)
include h

theorem params : u.params = s.params := (congrArg State.params h.frame :)

theorem fcause : u.fcause = s.fcause := (congrArg State.fcause h.frame :)

theorem legacy : u.legacy = s.legacy := (congrArg State.legacy h.frame :)

theorem mode : u.mode = .dec := congrArg State.mode h.frame

theorem keylen : u.keylen = s.keylen := (congrArg State.keylen h.frame :)

theorem lutMatch (c : Chr) : u.lutMatch c = s.lutMatch c := by rw [h.frame]; rfl

theorem keyRead (j : BitVec 8) : u.keyRead j = s.keyRead j := by rw [h.frame]; rfl

theorem rb_length : u.rb.length = n := by rw [h.rb, List.length_map, plainOf_length]

/-- The bytes emitted do not depend on the bits behind them. -/
theorem append (more : Bits) (hn : 8 * n ≤ bits.length) : s.Emitted (bits ++ more) n u := by
  have hplain := s.plainOf_append more hn
  exact ⟨h.frame, h.kidx, by rw [hplain, h.u8], by rw [hplain, h.rb]⟩

/-- `EmitByte` of the next byte emits it (R145). -/
theorem emitByte (hkey : s.keylen ≠ 0) {x : Byte} (hx : x = octetAt bits n) : s.Emitted bits (n + 1) (u.emitByte x) := by
  have hplain : s.plainOf bits (n + 1) = s.plainOf bits n ++ [unshiftByte x (u.keyRead u.kidx)] := by
    rw [plainOf_succ, h.keyRead, keyRead_eq_keyAt hkey h.kidx, hx]
  refine ⟨by rw [h.frame]; rfl, ?_, ?_, ?_⟩
  · rw [emitByte_kidx, h.keylen, nextKidx_toNat _ hkey, h.kidx, Nat.mod_add_mod]
  · rw [hplain, u8Run_append_singleton, ← h.u8, emitByte_u8]
  · rw [hplain, List.map_append, ← h.rb, emitByte_rb, List.map_singleton]

/-- Emptying the group leaves what is emitted. -/
theorem setGroup (g : Group) (m : BitVec 3) : s.Emitted bits n (u.setGroup g m).ok :=
  ⟨by rw [h.frame]; rfl, h.kidx, h.u8, h.rb⟩

end Emitted

/-- Several `EmitByte` of the group that stands behind `3q` bytes of a bit string emit the next bytes of it (R145). -/
theorem Emitted.emitBytes {s u : State} {bits : Bits} {q : Nat} (h : s.Emitted bits (3 * q) u) (hkey : s.keylen ≠ 0)
    {g : Group} (hg : ∀ k, g.getMsbD k = bits.getD (24 * q + k) false) {m : Nat} (hm : m ≤ 3) :
    s.Emitted bits (3 * q + m) (u.emitBytes g m) := by
  induction m with
  | zero => exact h
  | succ m ih =>
    rw [emitBytes_succ]
    exact (ih (by omega)).emitByte hkey (groupByte_eq_octetAt hg hm)

namespace DecodeOverflowed
variable {s u : State} {cs : List Chr} (h : s.DecodeOverflowed cs u)
include h

theorem faulted : u.Faulted := by simp [State.Faulted, h.cause]

/-- The fault stays through the characters that follow, and they want no less room. -/
theorem decp {c : Chr} {v : State} (hv : exec (.decp c) u = .next v) : s.DecodeOverflowed (cs ++ [c]) v := by
  have hfull := h.full
  have hle := s.found_le_append cs c
  exact ⟨(fcause_of_exec_of_faulted rfl h.faulted hv).trans h.cause, by omega⟩

theorem dece {t : State} (ht : exec .dece u = .next t) : s.DecodeOverflowed cs t :=
  ⟨(fcause_of_exec_of_faulted rfl h.faulted ht).trans h.cause, h.full⟩

end DecodeOverflowed

/-- The verdict of the bytes emitted, the group emptied and the transaction closed, is that of R148. -/
theorem Emitted.decoded {s u : State} {bits : Bits} {n : Nat} (h : s.Emitted bits n u) (hf : s.fcause = .noFault) :
    s.Decoded (s.plainOf bits n) (giveVerdict { u.setGroup 0 0 with mode := .done }) := by
  have hrkind : u.rkind = .bytes := congrArg State.rkind h.frame
  have hkidx : u.kidx.toNat = (s.plainOf bits n).length % s.keylen.toNat := by rw [plainOf_length, h.kidx]
  have hvalid : u.u8 = .s0 ↔ utf8Valid (s.plainOf bits n) := by rw [h.u8, u8Run_eq_s0_iff]
  by_cases hu : u.u8 = .s0
  · rw [giveVerdict_of_s0 (by exact hu)]
    have hP := hvalid.1 hu
    exact ⟨fun _ => ⟨h.rb, rfl, h.fcause.trans hf⟩, fun hne => absurd hP hne, fun hne => absurd hP hne, rfl, hrkind, hkidx⟩
  have hP := mt hvalid.2 hu
  cases hl : u.legacy with
  | true =>
    rw [giveVerdict_of_legacy (by exact hu) (by exact hl)]
    exact ⟨fun hv => absurd hv hP, fun _ _ => ⟨h.rb, rfl, h.fcause.trans hf⟩,
      fun _ hl' => by simp [← h.legacy, hl] at hl', rfl, hrkind, hkidx⟩
  | false =>
    rw [giveVerdict_of_malformed (by exact hu) (by exact hl) (by exact h.fcause.trans hf)]
    exact ⟨fun hv => absurd hv hP, fun _ hl' => by simp [← h.legacy, hl] at hl', fun _ _ => ⟨rfl, rfl, rfl⟩, rfl, hrkind,
      hkidx⟩

namespace Unpacked
variable {s u : State} {cs : List Chr} (h : s.Unpacked cs u)
include h

/-- The group with one more symbol in it holds the bits of that symbol too (R147). -/
theorem decGroup_getMsbD {c : Chr} {i : Sym} (hc : s.lutMatch c = some i) (k : Nat) :
    (decGroup i u).getMsbD k = (s.decodedBits (cs ++ [c])).getD (24 * (s.found cs / 8) + k) false := by
  have hgcnt := h.gcnt
  have hle : 3 * u.gcnt.toNat ≤ k ↔ 3 * s.found cs ≤ 24 * (s.found cs / 8) + k := by omega
  have hsub : k - 3 * u.gcnt.toNat = 24 * (s.found cs / 8) + k - 3 * s.found cs := by omega
  rw [decGroup, BitVec.getMsbD_or, h.grp, placeSym_getMsbD, decodedBits_append_of_some cs hc, getD_append_bitsOf,
    decodedBits_length]
  simp only [hle, hsub]

/-- The bytes emitted stay with one more symbol. -/
theorem emitted_append {c : Chr} {i : Sym} (hc : s.lutMatch c = some i) :
    s.Emitted (s.decodedBits (cs ++ [c])) (3 * (s.found cs / 8)) u := by
  rw [decodedBits_append_of_some cs hc]
  exact h.toEmitted.append _ (by rw [decodedBits_length]; omega)

/-- A symbol goes into the group, unless it fills the group and there is no room for its bytes (R147). -/
theorem decpFound (hf : s.fcause = .noFault) (hkey : s.keylen ≠ 0) {c : Chr} {i : Sym} (hc : s.lutMatch c = some i) :
    s.DecodeOverflowed (cs ++ [c]) (Machine.decpFound i u) ∨ s.Unpacked (cs ++ [c]) (Machine.decpFound i u) := by
  have hgcnt := h.gcnt
  have hfound := found_append_of_some cs hc
  have hgroup := h.decGroup_getMsbD hc
  have hemitted := h.emitted_append hc
  by_cases h7 : u.gcnt.toNat = 7
  · have hitems : 3 * (s.found cs / 8) + 3 = 3 * (s.found (cs ++ [c]) / 8) := by omega
    by_cases hroom : u.rb.length + 3 ≤ u.params.rbMax
    · rw [decpFound_of_room i h7 hroom]
      have hnext := (hemitted.emitBytes hkey hgroup (Nat.le_refl 3)).setGroup 0 0
      rw [hitems] at hnext
      refine .inr ⟨hnext, ?_, fun k => ?_⟩
      · show 0 = _
        omega
      · rw [List.getD_eq_default _ _ (by rw [decodedBits_length]; omega)]
        exact BitVec.getMsbD_zero
    · rw [decpFound_of_no_room i (h.fcause.trans hf) h7 (Nat.lt_of_not_le hroom)]
      rw [h.rb_length, h.params] at hroom
      exact .inl ⟨rfl, by omega⟩
  · have hlt : u.gcnt.toNat < 7 := by omega
    have hdiv : s.found (cs ++ [c]) / 8 = s.found cs / 8 := by omega
    rw [decpFound_of_lt i hlt]
    refine .inr ⟨hdiv ▸ hemitted.setGroup _ _, ?_, hdiv ▸ hgroup⟩
    show (u.gcnt + 1).toNat = _
    rw [gcnt_succ_toNat (by omega)]
    omega

/-- A character that is not in the alphabet adds nothing (R140). -/
theorem skip {c : Chr} (hc : s.lutMatch c = none) : s.Unpacked (cs ++ [c]) u.ok := by
  have hemitted : s.Emitted (s.decodedBits cs) (3 * (s.found cs / 8)) u.ok := h.toEmitted.setGroup u.grp u.gcnt
  constructor <;> simp only [found_append_of_none cs hc, decodedBits_append_of_none cs hc]
  exacts [hemitted, h.gcnt, h.grp]

/-- `DECP` skips a character that is not in the alphabet and unpacks one that is (R147). -/
theorem decp (hf : s.fcause = .noFault) (hkey : s.keylen ≠ 0) {c : Chr} {v : State} (hv : exec (.decp c) u = .next v) :
    s.DecodeOverflowed (cs ++ [c]) v ∨ s.Unpacked (cs ++ [c]) v := by
  rw [exec_of_legal rfl (h.fcause.trans hf) h.mode] at hv
  obtain rfl : decpBody c u = v := Host.Outcome.next.inj hv
  cases hc : s.lutMatch c with
  | none =>
    rw [decpBody_of_none ((h.lutMatch c).trans hc)]
    exact .inr (h.skip hc)
  | some i =>
    rw [decpBody_of_some ((h.lutMatch c).trans hc)]
    exact h.decpFound hf hkey hc

/-- `DECE` emits the whole bytes that are left and gives the verdict, unless there is no room for them (R148). -/
theorem dece (hf : s.fcause = .noFault) (hkey : s.keylen ≠ 0) {t : State} (ht : exec .dece u = .next t) :
    s.DecodeOverflowed cs t ∨ s.Decoded (s.plainOf (s.decodedBits cs) (3 * s.found cs / 8)) t := by
  rw [exec_of_legal rfl (h.fcause.trans hf) h.mode] at ht
  obtain rfl : deceBody u = t := Host.Outcome.next.inj ht
  have hgcnt := h.gcnt
  have htotal : 3 * (s.found cs / 8) + flushBytes u.gcnt = 3 * s.found cs / 8 := by rw [flushBytes]; omega
  by_cases hroom : u.rb.length + flushBytes u.gcnt ≤ u.params.rbMax
  · rw [deceBody_of_room hroom, ← htotal]
    have hflush : flushBytes u.gcnt ≤ 3 := by rw [flushBytes]; omega
    exact .inr ((h.toEmitted.emitBytes hkey h.grp hflush).decoded hf)
  · rw [deceBody_of_no_room (h.fcause.trans hf) (Nat.lt_of_not_le hroom)]
    rw [h.rb_length, h.params, htotal] at hroom
    exact .inl ⟨rfl, Nat.lt_of_not_le hroom⟩

end Unpacked

section ready
variable {s : State} (hinv : s.Inv) (hready : s.Ready)
include hinv hready

/-- `DECB` on a ready state opens a transaction with no character in it (R146). -/
theorem unpacked_nil_of_exec_decb {u : State} (hu : exec .decb s = .next u) : s.Unpacked [] u := by
  obtain ⟨hm, hf, ha, hkey⟩ := hready
  obtain ⟨hgrp, hgcnt, hkidx, hu8, hrb, -, -⟩ := hinv.clear hm
  rw [exec_of_legal rfl hf hm] at hu
  obtain rfl : beginTransaction .dec .bytes s = u := Host.Outcome.next.inj hu
  rw [beginTransaction_of_configured _ _ ha (by bv_omega)]
  refine ⟨⟨rfl, ?_, ?_, ?_⟩, ?_, fun k => ?_⟩
  · simp [hkidx]
  · simpa [plainOf, u8Run] using hu8
  · simpa [plainOf] using hrb
  · simp [hgcnt]
  · simp [hgrp, decodedBits, decodeCharset]

/-- The characters pushed are unpacked, or the result overflowed, when `DECE` closes the transaction. -/
theorem decoded_of_runInstrs {cs : List Chr} {rs : List Response} {t : State}
    (hrun : runInstrs (decodeTransaction cs) s = .next (rs, t)) :
    s.DecodeOverflowed cs t ∨ s.Decoded (s.plainOf (s.decodedBits cs) (3 * s.found cs / 8)) t := by
  obtain ⟨-, hf, -, hlen⟩ := id hready
  have hkey : s.keylen ≠ 0 := by bv_omega
  have hstep (pre : List Chr) (c : Chr) (u v : State) (hpre : s.DecodeOverflowed pre u ∨ s.Unpacked pre u)
      (hv : exec (.decp c) u = .next v) : s.DecodeOverflowed (pre ++ [c]) v ∨ s.Unpacked (pre ++ [c]) v :=
    hpre.elim (fun h => .inl (h.decp hv)) fun h => h.decp hf hkey hv
  obtain ⟨u, h | h, ht⟩ := exists_of_runInstrs_transaction hstep
    (fun u hu => .inr (unpacked_nil_of_exec_decb hinv hready hu)) hrun
  · exact .inl (h.dece ht)
  · exact h.dece hf hkey ht

end ready

/-- A decode transaction that comes to its verdict has not overflowed. -/
theorem Decoded.fcause_ne_resultOverflow {s t : State} {P : List Byte} (h : s.Decoded P t) :
    t.fcause ≠ .resultOverflow := by
  by_cases hP : utf8Valid P
  · obtain ⟨-, -, hcause⟩ := h.valid hP
    simp [hcause]
  cases hl : s.legacy with
  | true =>
    obtain ⟨-, -, hcause⟩ := h.legacy hP hl
    simp [hcause]
  | false =>
    obtain ⟨-, -, hcause⟩ := h.malformed hP hl
    simp [hcause]

end State

/-- Settles O53: every run comes to its end, with the verdict on the decoded bytes or with an overflow for want of room. -/
theorem decodeTransactionLaw : Obligations.DecodeTransactionLaw := by
  unfold Obligations.DecodeTransactionLaw
  intro s cs P hinv hready hP
  obtain rfl : s.plainOf (s.decodedBits cs) (3 * s.found cs / 8) = P :=
    (hP.trans (s.unshift_splitOctets_joinTriplets cs)).symm
  obtain ⟨rs, t, hrun⟩ := exists_runInstrs_eq_next (decodeTransaction cs) s
  refine ⟨rs, t, hrun, ?_⟩
  rcases State.decoded_of_runInstrs hinv hready hrun with ⟨hcause, hfull⟩ | h
  · refine ⟨fun hne => absurd hcause hne, fun hroom => ?_⟩
    rw [State.plainOf_length] at hroom
    exact absurd hfull (Nat.not_lt_of_le hroom)
  · exact ⟨fun _ => ⟨h.valid, h.legacy, h.malformed, h.mode, h.rkind, h.kidx⟩, fun _ => h.fcause_ne_resultOverflow⟩

end Sys2Proof.Machine
end

section
/-! The UTF-8 machine's table, `BAD`, and which byte sequences can still become valid (spec/43_utf8.md R162, R164, R168). -/

namespace Sys2Proof.Machine

/-- The row of a waiting state: a byte in its range takes it on, any other makes the sequence invalid (R162). -/
theorem u8Cont_row (lo hi : Byte) (next : U8) (p : Byte) :
    (lo.toNat ≤ p.toNat ∧ p.toNat ≤ hi.toNat → u8Cont lo hi next p = next) ∧
    (p.toNat < lo.toNat ∨ hi.toNat < p.toNat → u8Cont lo hi next p = .bad) :=
  ⟨fun hin => if_pos hin, fun hout => if_neg fun ⟨hlo, hhi⟩ => hout.elim (Nat.not_lt_of_le hlo) (Nat.not_lt_of_le hhi)⟩

/-- Settles O49: from `S0` a row's range answers each test of the lead byte, a waiting state has one range only. -/
theorem utf8TransitionTable : Obligations.Utf8TransitionTable := by
  unfold Obligations.Utf8TransitionTable
  simp only [List.forall_mem_cons, List.not_mem_nil, false_implies, implies_true, and_true]
  refine ⟨?lead, ?waiting, fun _ => rfl⟩
  case lead =>
    simp only [u8Next, u8Lead, BitVec.le_def, ← BitVec.toNat_inj, BitVec.toNat_ofNat]
    refine ⟨?_, ?_, ?_, ?_, ?_, ?_, ?_, ?_, ?_, ?_, ?_, ?_⟩
    all_goals
      intro p hlo hhi
      simp (disch := omega) only [if_pos, if_neg]
  case waiting =>
    exact ⟨u8Cont_row 0x80 0xBF .s0, u8Cont_row 0x80 0xBF .s1, u8Cont_row 0x80 0xBF .s2, u8Cont_row 0xA0 0xBF .s1,
      u8Cont_row 0x80 0x9F .s1, u8Cont_row 0x90 0xBF .s2, u8Cont_row 0x80 0x8F .s2⟩

/-- The machine on one sequence after another. -/
theorem u8Run_append (P Q : List Byte) : u8Run (P ++ Q) = Q.foldl u8Next (u8Run P) := List.foldl_append

/-- No byte leads out of `BAD` (R164). -/
theorem foldl_u8Next_bad (Q : List Byte) : Q.foldl u8Next .bad = .bad := List.foldl_fixed' (fun _ => rfl) Q

/-- What has led to `BAD` leads to `BAD` with more bytes behind it (R164). -/
theorem u8Run_append_of_bad {P : List Byte} (h : u8Run P = .bad) (Q : List Byte) : u8Run (P ++ Q) = .bad := by
  rw [u8Run_append, h, foldl_u8Next_bad]

/-- What has led to `BAD` is the beginning of no valid UTF-8 (R164). -/
theorem not_utf8Valid_append_of_bad {P : List Byte} (h : u8Run P = .bad) (Q : List Byte) : ¬ utf8Valid (P ++ Q) := by
  rw [← u8Run_eq_s0_iff, u8Run_append_of_bad h]
  simp

/-- The lowest bytes that complete the character started: the lower end of each range still expected. -/
def U8.completion (u : U8) : List Byte := (u.expects.getD []).map Prod.fst

/-- Every state but `BAD` has a way back to `S0`. -/
theorem foldl_u8Next_completion {u : U8} (hu : u ≠ .bad) : u.completion.foldl u8Next u = .s0 := by
  cases u with
  | bad => exact absurd rfl hu
  | s0 | s1 | s2 | s3 | se0 | sed | sf0 | sf4 => rfl

/-- What has not led to `BAD` becomes valid with the completion of its last character. -/
theorem utf8Valid_append_completion {P : List Byte} (h : u8Run P ≠ .bad) : utf8Valid (P ++ (u8Run P).completion) := by
  rw [← u8Run_eq_s0_iff, u8Run_append, foldl_u8Next_completion h]

/-- The machine ends in `BAD` exactly on what is no beginning of valid UTF-8 (R168). -/
theorem u8Run_eq_bad_iff (P : List Byte) : u8Run P = .bad ↔ ¬ ∃ Q, utf8Valid (P ++ Q) := by
  constructor
  · rintro h ⟨Q, hQ⟩
    exact not_utf8Valid_append_of_bad h Q hQ
  · intro h
    by_contra hbad
    exact h ⟨_, utf8Valid_append_completion hbad⟩

/-- Settles O50: in a waiting state the character is still open, and its completion is not empty. -/
theorem utf8MachineDecidesValidity : Obligations.Utf8MachineDecidesValidity := by
  unfold Obligations.Utf8MachineDecidesValidity
  refine fun P => ⟨u8Run_eq_s0_iff P, u8Run_eq_bad_iff P, fun hs0 hbad => ?_⟩
  have hopen : ¬ utf8Valid P := mt (u8Run_eq_s0_iff P).2 hs0
  refine ⟨hopen, (u8Run P).completion, fun hnil => hopen ?_, utf8Valid_append_completion hbad⟩
  simpa [hnil] using utf8Valid_append_completion hbad

/-- Only `DECP` and `DECE` run the machine, and only `CLR` and `SRST` restart it (R38). -/
theorem body_u8_of_not_writer {i : Instr} (s : State) (hdecp : ∀ c, i ≠ .decp c) (hdece : i ≠ .dece) (hclr : i ≠ .clr)
    (hsrst : i ≠ .srst) : (body i s).u8 = s.u8 := by
  cases i with
  | srst => exact absurd rfl hsrst
  | clr => exact absurd rfl hclr
  | decp c => exact absurd rfl (hdecp c)
  | dece => exact absurd rfl hdece
  | lda | kclr | setl | rdst | rdn => rfl
  | chka | kpush | encb | decb | encp | ence =>
    simp only [body, chkaBody, kpushBody, beginTransaction, encpBody, enceBody]
    split_ifs <;> rfl
  | pop => simp only [body, popBody]; split <;> rfl

/-- The verdict reads `U8` (R148). -/
@[simp] theorem giveVerdict_u8 (s : State) : (giveVerdict s).u8 = s.u8 := by
  unfold giveVerdict
  split_ifs <;> rfl

section bad
variable {s : State} (h : s.u8 = .bad)
include h

/-- An emitted byte leaves `BAD` as it is (R145, R164). -/
theorem emitBytes_u8_of_bad (g : Group) (n : Nat) : (s.emitBytes g n).u8 = .bad := by
  induction n with
  | zero => exact h
  | succ n ih =>
    rw [State.emitBytes_succ, State.emitByte_u8, ih]
    rfl

theorem decpBody_u8_of_bad (c : Chr) : (decpBody c s).u8 = .bad := by
  unfold decpBody decpFound
  split
  · exact h
  split_ifs
  · exact h
  · exact emitBytes_u8_of_bad h _ 3
  · exact h

theorem deceBody_u8_of_bad : (deceBody s).u8 = .bad := by
  unfold deceBody
  split_ifs
  · exact h
  · rw [giveVerdict_u8]
    exact emitBytes_u8_of_bad h _ _

/-- No command but `CLR` and `SRST` leads out of `BAD` (R164). -/
theorem body_u8_of_bad {i : Instr} (hclr : i ≠ .clr) (hsrst : i ≠ .srst) : (body i s).u8 = .bad := by
  by_cases hdecp : ∃ c, i = .decp c
  · obtain ⟨c, rfl⟩ := hdecp
    exact decpBody_u8_of_bad h c
  by_cases hdece : i = .dece
  · subst hdece
    exact deceBody_u8_of_bad h
  · rw [body_u8_of_not_writer s (fun c hc => hdecp ⟨c, hc⟩) hdece hclr hsrst, h]

theorem exec_u8_of_bad {i : Instr} {t : State} (hclr : i ≠ .clr) (hsrst : i ≠ .srst) (ht : exec i s = .next t) :
    t.u8 = .bad := by
  rcases exec_cases ht with ⟨-, rfl⟩ | ⟨_, _, _, rfl⟩ | ⟨_, _, _, _, rfl⟩ | ⟨_, _, _, _, rfl⟩
  · exact body_u8_of_bad h hclr hsrst
  · exact h
  · exact h
  · exact body_u8_of_bad h hclr hsrst

/-- A word leads out of `BAD` only if it is that of `CLR` or `SRST` (R164). -/
theorem takeCommand_u8_of_bad {w : Word} {t : State} (hclr : w ≠ encode .clr) (hsrst : w ≠ encode .srst)
    (ht : takeCommand w s = .next t) : t.u8 = .bad := by
  cases hw : decode w with
  | ok i =>
    obtain rfl := encode_of_decode hw
    exact exec_u8_of_bad h (mt (congrArg encode) hclr) (mt (congrArg encode) hsrst) (takeCommand_of_ok s hw ▸ ht)
  | error e =>
    obtain rfl : s.raise .illegalCommand = t := by simpa [takeCommand_of_error s hw] using ht
    exact h

end bad

/-- Settles O51: `BAD` has no way out by bytes, and of the inputs only the two words and hardware reset write `U8` anew. -/
theorem badIsAbsorbing : Obligations.BadIsAbsorbing := by
  unfold Obligations.BadIsAbsorbing
  refine ⟨fun P Q h => ⟨u8Run_append_of_bad h Q, not_utf8Valid_append_of_bad h Q⟩, ?_⟩
  intro s t x rest h hport hreset hclr hsrst ht
  cases x with
  | hardReset => exact absurd rfl hreset
  | command w =>
    exact takeCommand_u8_of_bad (s := { s with port := rest }) h (mt (congrArg _) hclr) (mt (congrArg _) hsrst)
      (step_of_port_command hport ▸ ht)

end Sys2Proof.Machine
end

section
/-! The status and result commands (spec/44_result.md). -/

namespace Sys2Proof.Machine

/-- The status word of the reset state, for every value of the parameters (R37, R41). -/
theorem State.resetWith_status (p : Params) : (State.resetWith p).status = 0x00010000#32 :=
  (State.resetWith p).restart_status

/-- Settles O27: `RDST` passes no check and writes the response only. -/
theorem rdstReturnsStatus : Obligations.RdstReturnsStatus := by
  unfold Obligations.RdstReturnsStatus
  exact ⟨rfl, fun s => exec_of_gate_none rfl s, State.resetWith_status⟩

/-- No result is so long that `RCOUNT` wraps: `RBMAX` is below `2^32` (R5, R40 item 8). -/
theorem State.R40.rcount_toNat {s : State} (h : s.R40) (hp : s.params.InRange) : s.rcount.toNat = s.rb.length := by
  obtain ⟨-, hroom⟩ := h.capacities
  obtain ⟨-, -, -, hmax⟩ := hp
  exact (BitVec.toNat_ofNat ..).trans (Nat.mod_eq_of_lt (by omega))

/-- After `MalformedUtf8` there is no result (R40 item 7). -/
theorem State.R40.rb_eq_nil_of_malformedUtf8 {s : State} (h : s.R40) (hf : s.fcause = .malformedUtf8) : s.rb = [] := by
  obtain ⟨hiff, hempty⟩ := h.malformedIffCause
  exact (hempty (hiff.2 hf)).1

/-- Settles O28: `RDN` passes no check and writes the response only; what it says of the count is in R40, items 4, 5, 7
and 8. -/
theorem rdnReturnsCount : Obligations.RdnReturnsCount := by
  unfold Obligations.RdnReturnsCount
  refine ⟨rfl, fun s => exec_of_gate_none rfl s, fun s h hp => ⟨h.rcount_toNat hp, ?encoding, ?decoding, ?malformed⟩⟩
  case encoding =>
    intro hm
    obtain ⟨-, -, -, hitems, -⟩ := h.encGroup hm
    exact hitems
  case decoding =>
    intro hm
    obtain ⟨-, -, hitems, -⟩ := h.decGroup hm
    exact hitems
  case malformed =>
    intro hf
    rw [h.rb_eq_nil_of_malformedUtf8 hf, List.length_nil]

/-- While faulted a command that is not always legal is refused: the response is all it writes (R214). -/
theorem exec_of_faulted {i : Instr} {m : Mode} {s : State} (hg : gate i = some m) (hf : s.Faulted) :
    exec i s = .next { s with rsp := some ⟨true, 0⟩ } := by
  rw [exec_of_gate_some hg, inMode_of_faulted hf]
  rfl

/-- `POP` takes the head (R182). -/
theorem popBody_of_cons {s : State} {v : Chr} {rest : List Chr} (h : s.rb = v :: rest) :
    popBody s = { s with rb := rest, rsp := some ⟨false, zext32 v⟩ } := by
  simp only [popBody, h]
  rfl

/-- `POP` on an empty buffer raises `ResultEmpty` (R182). -/
theorem popBody_of_nil {s : State} (hf : s.fcause = .noFault) (h : s.rb = []) :
    popBody s = { s with fcause := .resultEmpty, rsp := some ⟨true, 0⟩ } := by
  have hraise : popBody s = s.raise .resultEmpty := by simp only [popBody, h]
  exact hraise.trans (State.raise_of_noFault _ hf)

/-- The data of a popped item is the item's own number (R68). -/
theorem zext32_toNat (v : Chr) : (zext32 v).toNat = v.toNat := BitVec.toNat_setWidth_of_le (by decide)

/-- Settles O29: in `DONE` the head decides, and the data is the item's number, which the invariant keeps below 256 for
bytes. -/
theorem popTakesTheHead : Obligations.PopTakesTheHead := by
  unfold Obligations.PopTakesTheHead
  refine ⟨rfl, fun s => ⟨fun hf hm v rest hrb => ⟨?taken, ?character, fun h hk => ?byte⟩, fun hf hm hrb => ?empty,
    exec_of_wrong_mode rfl, exec_of_faulted rfl⟩⟩
  case taken => exact (exec_of_legal rfl hf hm).trans (congrArg _ (popBody_of_cons hrb))
  case character => exact (zext32_toNat v).trans_lt v.isLt
  case byte => exact (zext32_toNat v).trans_lt (h.elements.bytesAreBytes hk v (hrb ▸ List.mem_cons_self))
  case empty => exact (exec_of_legal rfl hf hm).trans (congrArg _ (popBody_of_nil hf hrb))

end Sys2Proof.Machine
end

section
/-! The bit-packing boundary: symbols split from a bit string and joined again (spec/48_host_contract.md R202). -/

namespace Sys2Proof.Machine

/-- The bits of a symbol are the three it was read from. -/
@[simp] theorem bitsOf_tripletOf (a b c : Bool) : bitsOf (tripletOf a b c) = [a, b, c] := by
  revert a b c
  decide

/-- The number of zero bits that fill the last symbol up (R122, R202). -/
def tripletPad (s : Bits) : Nat := 3 * ((s.length + 2) / 3) - s.length

theorem tripletPad_le (s : Bits) : tripletPad s ≤ 2 := by
  unfold tripletPad
  omega

/-- A whole symbol in front does not change the pad. -/
theorem tripletPad_cons_cons_cons (a b c : Bool) (s : Bits) : tripletPad (a :: b :: c :: s) = tripletPad s := by
  simp only [tripletPad, List.length_cons]
  omega

/-- The symbols of a bit string, written out as bits, are the string and its pad. -/
theorem splitTriplets_flatMap_bitsOf (s : Bits) :
    (splitTriplets s).flatMap bitsOf = s ++ List.replicate (tripletPad s) false := by
  induction s using splitTriplets.induct with
  | case1 => rfl
  | case2 a => simp [splitTriplets, tripletPad, List.replicate]
  | case3 a b => simp [splitTriplets, tripletPad]
  | case4 a b c rest ih =>
    rw [splitTriplets, List.flatMap_cons, ih, bitsOf_tripletOf, tripletPad_cons_cons_cons]
    rfl

/-- Split and joined again, a bit string is itself and its pad, cut to whole bytes (R202). -/
theorem joinTriplets_splitTriplets (s : Bits) :
    joinTriplets (splitTriplets s) =
      (s ++ List.replicate (tripletPad s) false).take (8 * (3 * ((s.length + 2) / 3) / 8)) := by
  rw [joinTriplets, splitTriplets_flatMap_bitsOf, splitTriplets_length]

theorem joinTriplets_length_mod (symbols : List Sym) : (joinTriplets symbols).length % 8 = 0 := by
  rw [joinTriplets_length, Nat.mul_mod_right]

/-- Only for a byte-aligned string does the cut take away just the pad: what is joined is always byte-aligned (R202). -/
theorem joinTriplets_splitTriplets_eq_self_iff (s : Bits) :
    joinTriplets (splitTriplets s) = s ↔ s.length % 8 = 0 := by
  constructor
  · intro hself
    rw [← hself]
    exact joinTriplets_length_mod _
  · intro haligned
    have hcut : 8 * (3 * ((s.length + 2) / 3) / 8) = s.length := by omega
    rw [joinTriplets_splitTriplets, hcut, List.take_left]

/-- Settles O48: the symbols written out as bits are the string and its pad, and the cut keeps whole bytes. -/
theorem tripletsAreIdentityOnBytes : Obligations.TripletsAreIdentityOnBytes := by
  unfold Obligations.TripletsAreIdentityOnBytes
  exact fun s => ⟨joinTriplets_splitTriplets s, tripletPad_le s, joinTriplets_length_mod _,
    (joinTriplets_splitTriplets_eq_self_iff s).2, mt (joinTriplets_splitTriplets_eq_self_iff s).1⟩

end Sys2Proof.Machine
end

section
/-! Faults: the common checks refuse or raise `SeqError`, and the first cause stays until it is cleared
(spec/60_exceptions.md R213, R214, R218). -/

namespace Sys2Proof.Machine

/-- A command other than the four of R214 stands behind the common checks. -/
theorem exists_gate_eq_some {i : Instr} (hsrst : i ≠ .srst) (hclr : i ≠ .clr) (hrdst : i ≠ .rdst) (hrdn : i ≠ .rdn) :
    ∃ m, gate i = some m :=
  Option.ne_none_iff_exists'.1 (mt (gate_eq_none_iff i).1 (by simp [hsrst, hclr, hrdst, hrdn]))

/-- A command that the table of R92 forbids in a mode has another mode of its own. -/
theorem exists_gate_of_legalIn_eq_false {i : Instr} {m : Mode} (h : legalIn i m = false) :
    ∃ n, gate i = some n ∧ m ≠ n := by
  have hnot : ¬ (gate i = none ∨ gate i = some m) := by simp [← legalIn_eq_true_iff, h]
  obtain ⟨hgated, hother⟩ := not_or.1 hnot
  obtain ⟨n, hn⟩ := Option.ne_none_iff_exists'.1 hgated
  exact ⟨n, hn, fun hmn => hother (hmn ▸ hn)⟩

/-- The word of a command, waiting at the port, is that command executed (R88). -/
theorem step_of_port_encode {i : Instr} {s : State} {rest : List Input} (h : s.port = .command (encode i) :: rest) :
    step s = exec i { s with port := rest } :=
  (step_of_port_command h).trans (takeCommand_of_ok _ (decode_encode i))

/-- Settles O32: behind the common checks a faulted machine only answers, and the word is gone from the port. -/
theorem faultedRefusesCommands : Obligations.FaultedRefusesCommands := by
  unfold Obligations.FaultedRefusesCommands
  refine ⟨fun i s hf hsrst hclr hrdst hrdn => ?executed, fun i s rest hf hsrst hclr hrdst hrdn hport => ?presented⟩ <;>
    obtain ⟨m, hg⟩ := exists_gate_eq_some hsrst hclr hrdst hrdn
  case executed => exact exec_of_faulted hg hf
  case presented => exact (step_of_port_encode hport).trans (exec_of_faulted hg hf)

/-- Settles O33: a mode the table forbids is not the command's own, and the check of the mode raises `SeqError`. -/
theorem seqErrorOutsideItsMode : Obligations.SeqErrorOutsideItsMode := by
  unfold Obligations.SeqErrorOutsideItsMode
  intro i s hf hl
  obtain ⟨m, hg, hm⟩ := exists_gate_of_legalIn_eq_false hl
  exact exec_of_wrong_mode hg hf hm

section faulted
variable {s t : State} (hf : s.Faulted)
include hf

/-- A second fault is not recorded (R213). -/
theorem State.raise_fcause_of_faulted (c : FCause) : (s.raise c).fcause = s.fcause := if_neg hf

/-- On a faulted machine the cause outlives every command but `CLR` and `SRST`: the gated ones are refused, `RDST` and `RDN`
only read (R213, R214). -/
theorem exec_fcause_of_faulted {i : Instr} (hclr : i ≠ .clr) (hsrst : i ≠ .srst) (ht : exec i s = .next t) :
    t.fcause = s.fcause := by
  cases hg : gate i with
  | some m =>
    obtain rfl := Host.Outcome.next.inj ((exec_of_faulted hg hf).symm.trans ht)
    rfl
  | none =>
    rcases (gate_eq_none_iff i).1 hg with rfl | rfl | rfl | rfl
    · exact absurd rfl hsrst
    · exact absurd rfl hclr
    · exact (congrArg State.fcause (Host.Outcome.next.inj ht)).symm
    · exact (congrArg State.fcause (Host.Outcome.next.inj ht)).symm

/-- The cause outlives every word but those of `CLR` and `SRST`: `IllegalCommand` comes second to it (R213). -/
theorem takeCommand_fcause_of_faulted {w : Word} (hclr : w ≠ encode .clr) (hsrst : w ≠ encode .srst)
    (ht : takeCommand w s = .next t) : t.fcause = s.fcause := by
  cases hw : decode w with
  | ok i =>
    obtain rfl := encode_of_decode hw
    exact exec_fcause_of_faulted hf (mt (congrArg encode) hclr) (mt (congrArg encode) hsrst)
      (takeCommand_of_ok s hw ▸ ht)
  | error e =>
    obtain rfl := Host.Outcome.next.inj ((takeCommand_of_error s hw).symm.trans ht)
    exact State.raise_fcause_of_faulted hf _

end faulted

/-- Hardware reset, `CLR` and `SRST` leave no cause behind (R226, R240). -/
theorem exists_step_of_clearing {s : State} {x : Input} {rest : List Input} (hport : s.port = x :: rest)
    (hx : x = .hardReset ∨ x = .command (encode .clr) ∨ x = .command (encode .srst)) :
    ∃ t, step s = .next t ∧ t.fcause = .noFault := by
  rcases hx with rfl | rfl | rfl
  · obtain ⟨r, hstep⟩ := step_of_reset (.inl hport)
    exact ⟨_, hstep, rfl⟩
  · exact ⟨_, step_of_port_encode hport, rfl⟩
  · exact ⟨_, step_of_port_encode hport, rfl⟩

/-- Settles O31: a fault is recorded only over none, and of the inputs only the two words and hardware reset clear it. -/
theorem firstFaultWins : Obligations.FirstFaultWins := by
  unfold Obligations.FirstFaultWins
  refine ⟨fun c s hf => ?kept, fun c s hf => ?recorded, fun s t x rest hf hport ht => ⟨?clears, ?stays⟩⟩
  case kept => exact State.raise_fcause_of_faulted hf c
  case recorded => exact if_pos hf
  case clears =>
    intro hx
    obtain ⟨u, hu, hclear⟩ := exists_step_of_clearing hport hx
    exact Host.Outcome.next.inj (hu.symm.trans ht) ▸ hclear
  case stays =>
    intro hreset hclr hsrst
    cases x with
    | hardReset => exact absurd rfl hreset
    | command w =>
      exact takeCommand_fcause_of_faulted (s := { s with port := rest }) hf (mt (congrArg _) hclr)
        (mt (congrArg _) hsrst) (step_of_port_command hport ▸ ht)

end Sys2Proof.Machine
end

section
/-! The invariant at reset and through a step (spec/10_state.md R40, R41). -/

namespace Sys2Proof.Machine

/-- Settles O41: a step takes a command, which keeps the invariant, or restarts the machine, which establishes it. -/
theorem stepKeepsTheInvariant : Obligations.StepKeepsTheInvariant := by
  unfold Obligations.StepKeepsTheInvariant
  exact fun _ _ => step_keeps_inv

/-- Settles O40: the reset state is clear, its key the one neutral byte, its alphabet empty. -/
theorem resetMeetsTheInvariant : Obligations.ResetMeetsTheInvariant := by
  unfold Obligations.ResetMeetsTheInvariant
  exact ⟨fun _ => State.inv_resetWith, State.inv_resetWith (p := Params.suggested) (by decide)⟩

end Sys2Proof.Machine
end

section
/-! Source commands and words written out (spec/30_encoding.md R81, R83, R90, R91). -/

namespace Sys2Proof

open Machine

/-- Settles O4: the decoder computes each of the thirteen words. -/
theorem wordsWrittenOutDecode : Obligations.WordsWrittenOutDecode := by
  unfold Obligations.WordsWrittenOutDecode
  decide

/-- The word of `SETL` as a number. -/
theorem encode_setl_toNat (v : BitVec 1) : (encode (.setl v)).toNat = 0x70000000 + v.toNat := by
  simp only [encode, toNat_append_eq_add, BitVec.toNat_ofNat]
  omega

/-- Settles O18: `SETL` in `IDLE` writes the flag its operand names, and elsewhere raises `SeqError`. -/
theorem setlWritesLegacy : Obligations.SetlWritesLegacy := by
  unfold Obligations.SetlWritesLegacy
  have hflag : ∀ v : BitVec 1, (v == 1#1) = decide (v.toNat = 1) := by decide
  intro v s hf
  refine ⟨encode_setl_toNat v, fun hm => ?_, exec_of_wrong_mode rfl hf⟩
  rw [← hflag]
  exact exec_of_legal rfl hf hm

/-- The operand of a command is in its range (R82, R90). -/
@[simp] theorem Source.byteOk_toNat (b : Byte) : Source.byteOk b.toNat = true := decide_eq_true b.isLt

@[simp] theorem Source.chrOk_toNat (c : Chr) : Source.chrOk c.toNat = true := decide_eq_true c.isLt

theorem Source.byteOk_eq_false_iff {b : Nat} : Source.byteOk b = false ↔ 255 < b :=
  decide_eq_false_iff_not.trans Nat.not_lt

theorem Source.chrOk_eq_false_iff {c : Nat} : Source.chrOk c = false ↔ 0x1FFFFF < c :=
  decide_eq_false_iff_not.trans Nat.not_lt

/-- A list of operands is refused for one of them that is out of its range. -/
theorem Source.all_byteOk_eq_false_iff {bs : List Nat} : bs.all Source.byteOk = false ↔ ∃ b ∈ bs, 255 < b := by
  simp [List.all_eq_false, Source.byteOk_eq_false_iff]

theorem Source.all_chrOk_eq_false_iff {cs : List Nat} : cs.all Source.chrOk = false ↔ ∃ c ∈ cs, 0x1FFFFF < c := by
  simp [List.all_eq_false, Source.chrOk_eq_false_iff]

/-- A command as a source command is well formed. -/
theorem Instr.toSource_wellFormed (i : Instr) : i.toSource.wellFormed = true := by
  cases i with
  | lda idx ch =>
    have hidx : idx.toNat < 8 := idx.isLt
    simp [toSource, Source.wellFormed, hidx]
  | setl v =>
    have hv : v.toNat < 2 := v.isLt
    simp [toSource, Source.wellFormed, hv]
  | kpush b | encp b => exact Source.byteOk_toNat b
  | decp ch => exact Source.chrOk_toNat ch
  | srst | clr | chka | kclr | encb | ence | decb | dece | rdst | rdn | pop => rfl

namespace Machine

/-- An assembled source command is its expansion (R91). -/
theorem assemble_of_wellFormed (n : Nat) {l : Source} (h : l.wellFormed = true) : assemble n l = some (expand n l) :=
  if_pos h

/-- The assembler errors are the source commands that are not well formed (R90). -/
theorem assemble_eq_none_iff {n : Nat} {l : Source} : assemble n l = none ↔ l.wellFormed = false := by
  simp [assemble]

/-- A command as a source command stands for itself. -/
theorem expand_toSource (n : Nat) (i : Instr) : expand n i.toSource = [i] := by
  cases i <;> simp [Instr.toSource, expand]

/-- Numbers of operands as the operands. -/
theorem map_toNat_map_ofNat {α : Type} {w : Nat} (f : BitVec w → α) (xs : List (BitVec w)) :
    ((xs.map BitVec.toNat).map fun x => f (BitVec.ofNat w x)) = xs.map f := by
  simp

/-- Settles O5: a well-formed source command assembles to its expansion, and the rest is what well-formedness asks of the
operands. -/
theorem sourceLinesAssemble : Obligations.SourceLinesAssemble := by
  unfold Obligations.SourceLinesAssemble
  refine ⟨fun i n => ?command, fun n c0 c1 c2 c3 c4 c5 c6 c7 => ?alphabet, fun n bs hbs => ?keybytes, fun n bs => ?encode,
    fun n cs => ?decode, fun n => rfl, fun n idx ch => ?lda, fun n b => ?kpush, fun n v => ?setl, fun n b => ?encp,
    fun n ch => ?decp, fun n cs => ?alphabetError, fun n bs => ?keybytesError, fun n bs => ?encodeError,
    fun n cs => ?decodeError⟩
  case command => rw [assemble_of_wellFormed n i.toSource_wellFormed, expand_toSource]
  case alphabet =>
    rw [assemble_of_wellFormed n (by simp [Source.wellFormed])]
    simp [expand]
  case keybytes =>
    rw [assemble_of_wellFormed n (by simp [Source.wellFormed, hbs]), expand, map_toNat_map_ofNat]
  case encode => rw [assemble_of_wellFormed n (by simp [Source.wellFormed]), expand, map_toNat_map_ofNat]
  case decode => rw [assemble_of_wellFormed n (by simp [Source.wellFormed]), expand, map_toNat_map_ofNat]
  all_goals
    simp only [assemble_eq_none_iff, Source.wellFormed, Bool.and_eq_false_iff, Source.byteOk_eq_false_iff,
      Source.chrOk_eq_false_iff, Source.all_byteOk_eq_false_iff, Source.all_chrOk_eq_false_iff, decide_eq_false_iff_not,
      Nat.not_lt, Bool.not_eq_false', List.isEmpty_iff, beq_eq_false_iff_ne, Nat.succ_le_iff]

end Machine

end Sys2Proof
end

section
/-! The step and its response (spec/60_exceptions.md section 3, 70_reset_and_hazards.md R246), and the causes of a command
(60_exceptions.md R211). -/

namespace Sys2Proof.Machine

/-- Settles O6: the word at the head of the port is decoded and executed, the port moved on. -/
theorem stepRunsTheDecodedCommand : Obligations.StepRunsTheDecodedCommand := by
  unfold Obligations.StepRunsTheDecodedCommand
  exact fun s w rest i hport hi => (step_of_port_command hport).trans (takeCommand_of_ok _ hi)

/-- Settles O35: a legal command fails with a cause of its own or succeeds. -/
theorem commandsRaiseOnlyTheirCauses : Obligations.CommandsRaiseOnlyTheirCauses := by
  unfold Obligations.CommandsRaiseOnlyTheirCauses
  intro i s t hf hl ht
  rcases exec_outcome ht with ⟨-, hfault, -⟩ | ⟨-, -, hillegal, -⟩ | ⟨-, -, -, hfail⟩ | ⟨-, -, hsucc⟩
  · exact absurd hf hfault
  · simp [hl] at hillegal
  · exact .inr hfail.cause
  · exact .inl (hsucc.fcause hf)

end Sys2Proof.Machine
end

section
/-! A run put together from its first command and the rest, and the result buffer drained (spec/20_memory.md R63). -/

namespace Sys2Proof.Machine

/-- A run is its first command taken, then the run of the others. -/
theorem runWords_cons {w : Word} {ws : List Word} {s u t : State} {rs : List Response} (hw : takeCommand w s = .next u)
    (hws : runWords ws u = .next (rs, t)) : runWords (w :: ws) s = .next (u.rsp.toList ++ rs, t) := by
  rw [runWords_cons_of_next hw, hws, afterFirst]

theorem runInstrs_cons {i : Instr} {is : List Instr} {s u t : State} {rs : List Response} (hi : exec i s = .next u)
    (his : runInstrs is u = .next (rs, t)) : runInstrs (i :: is) s = .next (u.rsp.toList ++ rs, t) :=
  runWords_cons ((takeCommand_of_ok s (decode_encode i)).trans hi) his

/-- As many `POP`s as there are items return the items in order (R63, R182). -/
theorem runInstrs_pops {items : List Chr} {s : State} (hf : s.fcause = .noFault) (hm : s.mode = .done)
    (hrb : s.rb = items) :
    ∃ t, runInstrs (List.replicate items.length .pop) s = .next (items.map fun v => ⟨false, zext32 v⟩, t) ∧
      t = { s with rb := [], rsp := t.rsp } := by
  induction items generalizing s with
  | nil => exact ⟨s, rfl, by rw [← hrb]⟩
  | cons v rest ih =>
    have hpop : exec .pop s = .next { s with rb := rest, rsp := some ⟨false, zext32 v⟩ } :=
      (exec_of_legal rfl hf hm).trans (congrArg _ (popBody_of_cons hrb))
    obtain ⟨t, hrun, ht⟩ := ih (s := { s with rb := rest, rsp := some ⟨false, zext32 v⟩ }) hf hm rfl
    exact ⟨t, runInstrs_cons hpop hrun, ht⟩

/-- Settles O30: each `POP` takes the head, by induction on the items. -/
theorem popsDrainInOrder : Obligations.PopsDrainInOrder := by
  unfold Obligations.PopsDrainInOrder
  intro s hf hm
  obtain ⟨t, hrun, ht⟩ := runInstrs_pops hf hm rfl
  exact ⟨t, hrun, by rw [ht], ht⟩

end Sys2Proof.Machine
end

section
/-! `unshift` is the inverse of `shift` (spec/41_encode.md R128, 42_decode.md R150). -/

namespace Sys2Proof.Machine

/-- Mapping every entry of a list to itself, whatever its place, changes nothing. -/
theorem mapIdx_eq_self {f : Nat → Byte → Byte} (h : ∀ i b, f i b = b) (bs : List Byte) : bs.mapIdx f = bs := by
  refine List.mapIdx_eq_iff.2 fun i => ?_
  cases bs[i]? <;> simp [h]

/-- What the key added is taken away again, at every place. -/
@[simp] theorem unshift_shift (bs key : List Byte) : unshift (shift bs key) key = bs := by
  rw [unshift_eq_mapIdx, shift_eq_mapIdx, List.mapIdx_mapIdx]
  exact mapIdx_eq_self (fun _ _ => BitVec.add_sub_cancel _ _) bs

@[simp] theorem shift_unshift (bs key : List Byte) : shift (unshift bs key) key = bs := by
  rw [unshift_eq_mapIdx, shift_eq_mapIdx, List.mapIdx_mapIdx]
  exact mapIdx_eq_self (fun _ _ => BitVec.sub_add_cancel _ _) bs

/-- The neutral key is zero at every place. -/
theorem keyAt_neutral (i : Nat) : keyAt [0] i = 0#8 := by
  simp [keyAt, Nat.mod_one]

/-- Settles O45: the key byte of a place is the same both ways, and zero for the neutral key. -/
theorem unshiftInvertsShift : Obligations.UnshiftInvertsShift := by
  unfold Obligations.UnshiftInvertsShift
  refine ⟨fun bytes key _ => ⟨unshift_shift bytes key, shift_unshift bytes key⟩, fun bytes => ⟨?_, ?_⟩⟩
  · rw [shift_eq_mapIdx]
    exact mapIdx_eq_self (fun i b => by rw [keyAt_neutral, BitVec.add_zero]) bytes
  · rw [unshift_eq_mapIdx]
    exact mapIdx_eq_self (fun i b => by rw [keyAt_neutral, BitVec.sub_zero]) bytes

end Sys2Proof.Machine
end

section
/-! What each command may write, said once (spec/10_state.md R38), and what follows for the elements it does not name. -/

namespace Sys2Proof.Machine

/-- What a command may write: the elements whose writer it is in the access table, the cause and the response (R38). -/
def Writes : Instr → State → State → Prop
  | .srst, s, t => t = s.restart.ok
  | .clr, s, t => t = s.clearTransaction.ok
  | .lda _ _, s, t => ∃ a l o c r, t = { s with alpha := a, aloaded := l, alphaOk := o, fcause := c, rsp := r }
  | .chka, s, t => ∃ o c r, t = { s with alphaOk := o, fcause := c, rsp := r }
  | .kclr, s, t | .kpush _, s, t => ∃ k n c r, t = { s with key := k, keylen := n, fcause := c, rsp := r }
  | .setl _, s, t => ∃ l c r, t = { s with legacy := l, fcause := c, rsp := r }
  | .encb, s, t | .decb, s, t => ∃ m k c r, t = { s with mode := m, rkind := k, fcause := c, rsp := r }
  | .encp _, s, t => ∃ g n k b c r, t = { s with grp := g, gcnt := n, kidx := k, rb := b, fcause := c, rsp := r }
  | .ence, s, t => ∃ g n b m v c r,
      t = { s with grp := g, gcnt := n, rb := b, mode := m, verdict := v, fcause := c, rsp := r }
  | .decp _, s, t => ∃ g n k u b c r,
      t = { s with grp := g, gcnt := n, kidx := k, u8 := u, rb := b, fcause := c, rsp := r }
  | .dece, s, t => ∃ g n k u b m v c r,
      t = { s with grp := g, gcnt := n, kidx := k, u8 := u, rb := b, mode := m, verdict := v, fcause := c, rsp := r }
  | .rdst, s, t | .rdn, s, t => ∃ r, t = { s with rsp := r }
  | .pop, s, t => ∃ b c r, t = { s with rb := b, fcause := c, rsp := r }

/-- Several `EmitByte` write `KIDX`, `U8` and `RB` (R145). -/
theorem State.exists_emitBytes_eq (g : Group) (n : Nat) (s : State) :
    ∃ k u b, s.emitBytes g n = { s with kidx := k, u8 := u, rb := b } := by
  induction n with
  | zero => exact ⟨_, _, _, rfl⟩
  | succ n ih =>
    obtain ⟨k, u, b, h⟩ := ih
    rw [State.emitBytes_succ, h]
    exact ⟨_, _, _, rfl⟩

/-- The cause and the response may be written by every command behind the common checks (R38, R224). -/
theorem writes_cause {i : Instr} {m : Mode} (hg : gate i = some m) (s : State) (c : FCause) (r : Option Response) :
    Writes i s { s with fcause := c, rsp := r } := by
  cases i with
  | srst | clr | rdst | rdn => cases hg
  | chka | setl | pop => exact ⟨_, _, _, rfl⟩
  | kclr | kpush | encb | decb => exact ⟨_, _, _, _, rfl⟩
  | lda => exact ⟨_, _, _, _, _, rfl⟩
  | encp => exact ⟨_, _, _, _, _, _, rfl⟩
  | ence | decp => exact ⟨_, _, _, _, _, _, _, rfl⟩
  | dece => exact ⟨_, _, _, _, _, _, _, _, _, rfl⟩

theorem decpBody_writes (ch : Chr) (s : State) : Writes (.decp ch) s (decpBody ch s) := by
  unfold decpBody decpFound
  split
  · exact ⟨_, _, _, _, _, _, _, rfl⟩
  split_ifs
  · exact ⟨_, _, _, _, _, _, _, rfl⟩
  · obtain ⟨k, u, b, h⟩ := State.exists_emitBytes_eq (decGroup _ s) 3 s
    rw [h]
    exact ⟨_, _, _, _, _, _, _, rfl⟩
  · exact ⟨_, _, _, _, _, _, _, rfl⟩

theorem deceBody_writes (s : State) : Writes .dece s (deceBody s) := by
  unfold deceBody giveVerdict
  obtain ⟨k, u, b, h⟩ := State.exists_emitBytes_eq s.grp (flushBytes s.gcnt) s
  rw [h]
  split_ifs <;> exact ⟨_, _, _, _, _, _, _, _, _, rfl⟩

/-- A command's pseudocode writes what the access table names. -/
theorem body_writes (i : Instr) (s : State) : Writes i s (body i s) := by
  cases i with
  | srst | clr => rfl
  | rdst | rdn => exact ⟨_, rfl⟩
  | lda => exact ⟨_, _, _, _, _, rfl⟩
  | kclr => exact ⟨_, _, _, _, rfl⟩
  | setl => exact ⟨_, _, _, rfl⟩
  | chka => simp only [body, chkaBody]; split_ifs <;> exact ⟨_, _, _, rfl⟩
  | kpush => simp only [body, kpushBody]; split_ifs <;> exact ⟨_, _, _, _, rfl⟩
  | encb | decb => simp only [body, beginTransaction]; split_ifs <;> exact ⟨_, _, _, _, rfl⟩
  | encp => simp only [body, encpBody]; split_ifs <;> exact ⟨_, _, _, _, _, _, rfl⟩
  | ence => simp only [body, enceBody]; split_ifs <;> exact ⟨_, _, _, _, _, _, _, rfl⟩
  | decp ch => exact decpBody_writes ch s
  | dece => exact deceBody_writes s
  | pop => simp only [body, popBody]; split <;> exact ⟨_, _, _, rfl⟩

/-- A command writes what the access table names, or only the cause and the response. -/
theorem exec_writes {i : Instr} {s t : State} (h : exec i s = .next t) : Writes i s t := by
  rcases exec_cases h with ⟨-, rfl⟩ | ⟨m, hg, -, rfl⟩ | ⟨m, hg, -, -, rfl⟩ | ⟨m, -, -, -, rfl⟩
  · exact body_writes i s
  · exact writes_cause hg s _ _
  · exact writes_cause hg s _ _
  · exact body_writes i s

/-- A command writes the cause to clear it, or raises a fault over none and says so (R212, R213). -/
theorem clr_or_raised_of_fcause_ne {i : Instr} {s t : State} (ht : exec i s = .next t) (hsrst : i ≠ .srst)
    (hne : t.fcause ≠ s.fcause) : i = .clr ∨ s.fcause = .noFault ∧ ∃ r, t.rsp = some r ∧ r.flt = true := by
  by_cases hclr : i = .clr
  · exact .inl hclr
  by_cases hf : s.fcause = .noFault
  · rcases exec_outcome ht with ⟨-, hfault, -⟩ | ⟨-, -, -, rfl⟩ | ⟨-, -, -, hfail⟩ | ⟨-, -, hsucc⟩
    · exact absurd hf hfault
    · exact .inr ⟨hf, _, rfl, rfl⟩
    · exact .inr ⟨hf, _, hfail.rsp, rfl⟩
    · exact absurd ((hsucc.fcause hf).trans hf.symm) hne
  · exact absurd (exec_fcause_of_faulted hf hclr hsrst ht) hne

/-- Settles O37: each command leaves every element that its row of the table does not name as it was. -/
theorem onlyWritersWrite : Obligations.OnlyWritersWrite := by
  unfold Obligations.OnlyWritersWrite
  intro i s t ht hsrst
  have hcause := clr_or_raised_of_fcause_ne ht hsrst
  have hw := exec_writes ht
  cases i with
  | srst => exact absurd rfl hsrst
  | clr => obtain rfl := hw; simp
  | rdst | rdn => obtain ⟨r, rfl⟩ := hw; simp
  | chka | setl | pop => obtain ⟨_, _, _, rfl⟩ := hw; simpa using hcause
  | kclr | kpush | encb | decb => obtain ⟨_, _, _, _, rfl⟩ := hw; simpa using hcause
  | lda => obtain ⟨_, _, _, _, _, rfl⟩ := hw; simpa using hcause
  | encp => obtain ⟨_, _, _, _, _, _, rfl⟩ := hw; simpa using hcause
  | ence | decp => obtain ⟨_, _, _, _, _, _, _, rfl⟩ := hw; simpa using hcause
  | dece => obtain ⟨_, _, _, _, _, _, _, _, _, rfl⟩ := hw; simpa using hcause

/-- The commands that write the configuration (R38, R73). -/
def configures : Instr → Bool
  | .srst | .lda _ _ | .chka | .kclr | .kpush _ | .setl _ => true
  | .clr | .encb | .encp _ | .ence | .decb | .decp _ | .dece | .rdst | .rdn | .pop => false

/-- Two states with the same parameters and configuration (R5, R73). -/
structure State.SameConfiguration (s t : State) : Prop where
  params : t.params = s.params
  alpha : t.alpha = s.alpha
  aloaded : t.aloaded = s.aloaded
  alphaOk : t.alphaOk = s.alphaOk
  key : t.key = s.key
  keylen : t.keylen = s.keylen
  legacy : t.legacy = s.legacy

theorem State.SameConfiguration.trans {s t u : State} (h : s.SameConfiguration t) (h' : t.SameConfiguration u) :
    s.SameConfiguration u :=
  ⟨h'.params.trans h.params, h'.alpha.trans h.alpha, h'.aloaded.trans h.aloaded, h'.alphaOk.trans h.alphaOk,
    h'.key.trans h.key, h'.keylen.trans h.keylen, h'.legacy.trans h.legacy⟩

/-- A command that does not configure leaves the configuration. -/
theorem exec_keeps_configuration {i : Instr} {s t : State} (hi : configures i = false) (ht : exec i s = .next t) :
    s.SameConfiguration t := by
  have hsrst : i ≠ .srst := by rintro rfl; cases hi
  obtain ⟨hparams, -, halpha, hok, hkey, hlegacy, -⟩ := onlyWritersWrite i s t ht hsrst
  have hlda : ∀ idx ch, i ≠ .lda idx ch := by rintro _ _ rfl; cases hi
  obtain ⟨hslots, hloaded⟩ := halpha hlda
  obtain ⟨hbytes, hlen⟩ := hkey (by rintro _ rfl; cases hi) (by rintro rfl; cases hi)
  exact ⟨hparams, hslots, hloaded, hok hlda (by rintro rfl; cases hi), hbytes, hlen,
    hlegacy (by rintro _ rfl; cases hi)⟩

/-- The commands that configure are legal in `IDLE` only, `SRST` excepted (R92). -/
theorem gate_of_configures {i : Instr} (hi : configures i = true) (hsrst : i ≠ .srst) : gate i = some .idle := by
  cases i with
  | srst => exact absurd rfl hsrst
  | lda | chka | kclr | kpush | setl => rfl
  | clr | encb | encp | ence | decb | decp | dece | rdst | rdn | pop => cases hi

/-- Outside `IDLE` only `SRST` changes the configuration: the others that could are refused or out of their mode. -/
theorem exec_keeps_configuration_outside_idle {i : Instr} {s t : State} (hm : s.mode ≠ .idle) (hsrst : i ≠ .srst)
    (ht : exec i s = .next t) : s.SameConfiguration t := by
  cases hi : configures i with
  | false => exact exec_keeps_configuration hi ht
  | true =>
    rw [exec_of_gate_some (gate_of_configures hi hsrst)] at ht
    obtain rfl := Host.Outcome.next.inj ht
    rcases inMode_cases .idle (body i) s with ⟨-, e⟩ | ⟨-, -, e⟩ | ⟨-, hidle, -⟩
    · rw [e]; exact ⟨rfl, rfl, rfl, rfl, rfl, rfl, rfl⟩
    · rw [e]; exact ⟨rfl, rfl, rfl, rfl, rfl, rfl, rfl⟩
    · exact absurd hidle hm

/-- Outside `IDLE` only the word of `SRST` changes the configuration (R73). -/
theorem takeCommand_keeps_configuration {w : Word} {s t : State} (hm : s.mode ≠ .idle) (hsrst : w ≠ encode .srst)
    (ht : takeCommand w s = .next t) : s.SameConfiguration t := by
  cases hw : decode w with
  | ok i =>
    obtain rfl := encode_of_decode hw
    exact exec_keeps_configuration_outside_idle hm (mt (congrArg encode) hsrst) (takeCommand_of_ok s hw ▸ ht)
  | error e =>
    obtain rfl := Host.Outcome.next.inj ((takeCommand_of_error s hw).symm.trans ht)
    exact ⟨rfl, rfl, rfl, rfl, rfl, rfl, rfl⟩

/-- Settles O38: of the inputs only the two resets change the configuration outside `IDLE`. -/
theorem configurationIsFrozenOutsideIdle : Obligations.ConfigurationIsFrozenOutsideIdle := by
  unfold Obligations.ConfigurationIsFrozenOutsideIdle
  intro s t x rest hm hport hreset hsrst ht
  cases x with
  | hardReset => exact absurd rfl hreset
  | command w =>
    have h := takeCommand_keeps_configuration (s := { s with port := rest }) hm (mt (congrArg _) hsrst)
      (step_of_port_command hport ▸ ht)
    exact ⟨h.alpha, h.aloaded, h.alphaOk, h.key, h.keylen, h.legacy⟩

/-- No command takes an input from the port or changes the parameters. -/
theorem exec_port_params {i : Instr} {s t : State} (ht : exec i s = .next t) : t.port = s.port ∧ t.params = s.params := by
  by_cases hsrst : i = .srst
  · obtain rfl : s.restart.ok = t := Host.Outcome.next.inj (hsrst ▸ ht)
    exact ⟨rfl, rfl⟩
  · obtain ⟨hparams, hport, -⟩ := onlyWritersWrite i s t ht hsrst
    exact ⟨hport, hparams⟩

/-- Every command word has a next state and an answer, and leaves the port and the parameters (R246, R256). -/
theorem exists_takeCommand_eq_next (w : Word) (s : State) :
    ∃ t, takeCommand w s = .next t ∧ t.port = s.port ∧ t.rsp.isSome = true ∧ t.params = s.params := by
  cases hw : decode w with
  | error e => exact ⟨_, takeCommand_of_error s hw, rfl, rfl, rfl⟩
  | ok i =>
    obtain ⟨t, ht⟩ := exists_exec_eq_next i s
    have hrsp : t.rsp.isSome = true := by
      rcases exec_rsp ht with ⟨hrsp, -⟩ | ⟨d, hrsp, -⟩ <;> rw [hrsp] <;> rfl
    obtain ⟨hport, hparams⟩ := exec_port_params ht
    exact ⟨t, (takeCommand_of_ok s hw).trans ht, hport, hrsp, hparams⟩

/-- Settles O7: no input waits, or a word is taken and answered, or the machine is reset. -/
theorem everyStepAnswers : Obligations.EveryStepAnswers := by
  unfold Obligations.EveryStepAnswers
  have hidle (s : State) (hport : s.port = []) : step s = .next s := by simp [step, takeNext, hport]
  have hword (s : State) (w : Word) (rest : List Input) (hport : s.port = .command w :: rest) :
      ∃ t, step s = .next t ∧ t.port = rest ∧ t.rsp.isSome = true ∧ t.params = s.params := by
    rw [step_of_port_command hport]
    exact exists_takeCommand_eq_next w { s with port := rest }
  refine ⟨fun s => ?_, hidle, hword⟩
  match hport : s.port with
  | [] => exact ⟨s, hidle s hport⟩
  | .command w :: rest =>
    obtain ⟨t, ht, -⟩ := hword s w rest hport
    exact ⟨t, ht⟩
  | .hardReset :: rest =>
    obtain ⟨r, ht⟩ := step_of_reset (.inl hport)
    exact ⟨_, ht⟩

end Sys2Proof.Machine
end

section
/-! Faults are precise (spec/60_exceptions.md R212, R225). -/

namespace Sys2Proof.Machine

/-- What a command that raises a fault has written: the cause and the response only; with `InvalidAlphabet` also
`ALPHA_OK`; with `MalformedUtf8` what closes the transaction and empties the result (R212, R225). -/
def FaultAction (s t : State) : Prop :=
  (∃ c, c ≠ .invalidAlphabet ∧ c ≠ .malformedUtf8 ∧ t = { s with fcause := c, rsp := some ⟨true, 0⟩ }) ∨
  t = { s with alphaOk := false, fcause := .invalidAlphabet, rsp := some ⟨true, 0⟩ } ∨
  ∃ k u, t = { s with
    rb := [], verdict := .malformed, mode := .done, grp := 0, gcnt := 0, kidx := k, u8 := u,
    fcause := .malformedUtf8, rsp := some ⟨true, 0⟩ }

section action
variable {s : State} (hf : s.fcause = .noFault)
include hf

theorem faultAction_raise {c : FCause} (h1 : c ≠ .invalidAlphabet) (h2 : c ≠ .malformedUtf8) :
    FaultAction s (s.raise c) :=
  .inl ⟨c, h1, h2, State.raise_of_noFault c hf⟩

theorem chkaBody_faultAction : (chkaBody s).fcause = .noFault ∨ FaultAction s (chkaBody s) := by
  have hraise : FaultAction s (({ s with alphaOk := false } : State).raise .invalidAlphabet) :=
    .inr (.inl (State.raise_of_noFault (s := { s with alphaOk := false }) _ hf))
  unfold chkaBody
  split_ifs
  · exact .inr hraise
  · exact .inr hraise
  · exact .inl hf

theorem decpBody_faultAction (ch : Chr) : (decpBody ch s).fcause = .noFault ∨ FaultAction s (decpBody ch s) := by
  cases hc : s.lutMatch ch with
  | none => rw [decpBody_of_none hc]; exact .inl hf
  | some i =>
    rw [decpBody_of_some hc]
    rcases decpFound_cases i s with e | ⟨-, e⟩ | ⟨-, e⟩ <;> rw [e]
    · exact .inr (faultAction_raise hf (by simp) (by simp))
    · exact .inl (by simpa using hf)
    · exact .inl hf

theorem deceBody_faultAction : (deceBody s).fcause = .noFault ∨ FaultAction s (deceBody s) := by
  unfold deceBody
  split_ifs
  · exact .inr (faultAction_raise hf (by simp) (by simp))
  obtain ⟨k, u, b, h⟩ := State.exists_emitBytes_eq s.grp (flushBytes s.gcnt) s
  rw [h, giveVerdict]
  split_ifs
  · exact .inl hf
  · exact .inl hf
  · exact .inr (.inr (.inr ⟨k, u, State.raise_of_noFault _ hf⟩))

/-- A command behind the common checks raises no fault, or has written what the fault action lists. -/
theorem body_faultAction (i : Instr) (hg : gate i ≠ none) :
    (body i s).fcause = .noFault ∨ FaultAction s (body i s) := by
  have hraise {c : FCause} (h1 : c ≠ .invalidAlphabet) (h2 : c ≠ .malformedUtf8) := faultAction_raise hf h1 h2
  cases i with
  | srst | clr | rdst | rdn => exact absurd rfl hg
  | lda | kclr | setl => exact .inl hf
  | chka => exact chkaBody_faultAction hf
  | decp ch => exact decpBody_faultAction hf ch
  | dece => exact deceBody_faultAction hf
  | kpush =>
    simp only [body, kpushBody]
    split_ifs
    · exact .inr (hraise (by simp) (by simp))
    · exact .inl hf
  | encb | decb =>
    simp only [body, beginTransaction]
    split_ifs
    · exact .inr (hraise (by simp) (by simp))
    · exact .inr (hraise (by simp) (by simp))
    · exact .inl hf
  | encp =>
    simp only [body, encpBody]
    split_ifs
    · exact .inr (hraise (by simp) (by simp))
    · exact .inl hf
    · exact .inl hf
  | ence =>
    simp only [body, enceBody]
    split_ifs
    · exact .inr (hraise (by simp) (by simp))
    · exact .inl hf
  | pop =>
    simp only [body, popBody]
    split
    · exact .inr (hraise (by simp) (by simp))
    · exact .inl hf

/-- A command that ends faulted has written what the fault action lists. -/
theorem exec_faultAction {i : Instr} {t : State} (ht : exec i s = .next t) (hfault : t.Faulted) : FaultAction s t := by
  rcases exec_cases ht with ⟨hg, rfl⟩ | ⟨m, -, hs, -⟩ | ⟨m, -, -, -, rfl⟩ | ⟨m, hg, -, -, rfl⟩
  · exact absurd ((body_succeeds hg s).fcause hf) hfault
  · exact absurd hf hs
  · exact faultAction_raise hf (by simp) (by simp)
  · exact (body_faultAction hf i (by simp [hg])).resolve_left hfault

end action

/-- Settles O36: the cause tells which of the three fault actions was taken. -/
theorem faultsArePrecise : Obligations.FaultsArePrecise := by
  unfold Obligations.FaultsArePrecise
  intro i s t hf ht hfault
  rcases exec_faultAction hf ht hfault with ⟨c, h1, h2, rfl⟩ | rfl | ⟨k, u, rfl⟩
  · exact ⟨fun _ _ => rfl, fun h => absurd h h1, fun h => absurd h h2⟩
  · exact ⟨fun h => absurd rfl h, fun _ => rfl, nofun⟩
  · exact ⟨fun _ h => absurd rfl h, nofun, fun _ => ⟨rfl, rfl, rfl, rfl, rfl, rfl⟩⟩

end Sys2Proof.Machine
end

section
/-! What no command reads: the response, and for its own response (`DECE` excepted) the key bytes (spec/10_state.md R39). -/

namespace Sys2Proof.Machine

/-- The common checks answer alike where cause, mode and pseudocode do. -/
theorem inMode_rsp_congr {m : Mode} {p : State → State} {s u : State} (hf : u.fcause = s.fcause)
    (hm : u.mode = s.mode) (hp : (p u).rsp = (p s).rsp) : (inMode m p u).rsp = (inMode m p s).rsp := by
  rcases inMode_cases m p s with ⟨h, e⟩ | ⟨h, hne, e⟩ | ⟨h, hlegal, e⟩
  · rw [e, inMode_of_faulted (hf ▸ h)]; rfl
  · rw [e, inMode_of_ne (hf.trans h) (hm ▸ hne)]; rfl
  · rw [e, inMode_of_legal (hf.trans h) (hm.trans hlegal), hp]

/-- No pseudocode but that of `DECE` answers by the key bytes: `ENCP` and `DECP` put them into `GRP` and `RB` only. -/
theorem body_rsp_with_key {i : Instr} (hi : i ≠ .dece) (s : State) (key : List (Option Byte)) :
    (body i { s with key := key }).rsp = (body i s).rsp := by
  cases i with
  | dece => exact absurd rfl hi
  | srst | clr | lda | kclr | setl | rdst | rdn => rfl
  | chka => simp only [body, chkaBody, apply_ite State.rsp]; rfl
  | kpush => simp only [body, kpushBody, apply_ite State.rsp]; rfl
  | encb | decb => simp only [body, beginTransaction, apply_ite State.rsp]; rfl
  | encp => simp only [body, encpBody, apply_ite State.rsp]; rfl
  | ence => simp only [body, enceBody, apply_ite State.rsp]; rfl
  | decp ch =>
    have hmatch : State.lutMatch { s with key := key } ch = s.lutMatch ch := rfl
    cases hc : s.lutMatch ch with
    | none => simp only [body, decpBody_of_none hc, decpBody_of_none (hmatch.trans hc)]; rfl
    | some i =>
      simp only [body, decpBody_of_some hc, decpBody_of_some (hmatch.trans hc), decpFound, apply_ite State.rsp]
      rfl
  | pop => cases hrb : s.rb <;> simp only [body, popBody, hrb] <;> rfl

/-- Settles O39: the checks and the answers of a command other than `DECE` read no key byte. -/
theorem keyBytesAreNotReadBack : Obligations.KeyBytesAreNotReadBack := by
  unfold Obligations.KeyBytesAreNotReadBack
  intro i s t u key hi ht hu
  cases hg : gate i with
  | none =>
    rw [exec_of_gate_none hg] at ht hu
    obtain rfl := Host.Outcome.next.inj ht
    obtain rfl := Host.Outcome.next.inj hu
    exact (body_rsp_with_key hi s key).symm
  | some m =>
    rw [exec_of_gate_some hg] at ht hu
    obtain rfl := Host.Outcome.next.inj ht
    obtain rfl := Host.Outcome.next.inj hu
    exact (inMode_rsp_congr (s := s) (u := { s with key := key }) rfl rfl (body_rsp_with_key hi s key)).symm

/-- The bytes emitted do not depend on the last response. -/
theorem State.emitBytes_with_rsp (g : Group) (n : Nat) (s : State) (r : Option Response) :
    State.emitBytes g n { s with rsp := r } = { s.emitBytes g n with rsp := r } := by
  induction n with
  | zero => rfl
  | succ n ih => rw [State.emitBytes_succ, State.emitBytes_succ, ih]; rfl

theorem giveVerdict_with_rsp (s : State) (r : Option Response) : giveVerdict { s with rsp := r } = giveVerdict s := by
  unfold giveVerdict
  rfl

/-- No pseudocode reads the last response: each leaves its own. -/
theorem body_with_rsp (i : Instr) (s : State) (r : Option Response) : body i { s with rsp := r } = body i s := by
  cases i with
  | decp ch =>
    have hmatch : State.lutMatch { s with rsp := r } ch = s.lutMatch ch := rfl
    cases hc : s.lutMatch ch with
    | none => simp only [body, decpBody_of_none hc, decpBody_of_none (hmatch.trans hc)]; rfl
    | some i =>
      simp only [body, decpBody_of_some hc, decpBody_of_some (hmatch.trans hc), decpFound, State.emitBytes_with_rsp]
      rfl
  | dece =>
    simp only [body, deceBody, State.emitBytes_with_rsp]
    rfl
  | pop => simp only [body, popBody]; split <;> rfl
  | srst | clr | lda | chka | kclr | kpush | setl | encb | encp | ence | decb | rdst | rdn => rfl

theorem inMode_with_rsp {m : Mode} {p : State → State} {s : State} {r : Option Response}
    (h : p { s with rsp := r } = p s) : inMode m p { s with rsp := r } = inMode m p s := by
  rcases inMode_cases m p s with ⟨hf, e⟩ | ⟨hf, hm, e⟩ | ⟨hf, hm, e⟩
  · rw [e, inMode_of_faulted (by exact hf)]; rfl
  · rw [e, inMode_of_ne (by exact hf) (by exact hm)]; rfl
  · rw [e, inMode_of_legal (by exact hf) (by exact hm), h]

/-- No command reads the last response (R20, log 2). -/
theorem exec_with_rsp (i : Instr) (s : State) (r : Option Response) : exec i { s with rsp := r } = exec i s := by
  cases hg : gate i with
  | none => rw [exec_of_gate_none hg, exec_of_gate_none hg, body_with_rsp]
  | some m => rw [exec_of_gate_some hg, exec_of_gate_some hg, inMode_with_rsp (body_with_rsp i s r)]

theorem takeCommand_with_rsp (w : Word) (s : State) (r : Option Response) :
    takeCommand w { s with rsp := r } = takeCommand w s := by
  cases hw : decode w with
  | ok i => rw [takeCommand_of_ok _ hw, takeCommand_of_ok _ hw, exec_with_rsp]
  | error e => rw [takeCommand_of_error _ hw, takeCommand_of_error _ hw]; rfl

/-- A run of at least one word does not depend on the response before it. -/
theorem runWords_with_rsp {ws : List Word} (hne : ws ≠ []) (s : State) (r : Option Response) :
    runWords ws { s with rsp := r } = runWords ws s := by
  cases ws with
  | nil => exact absurd rfl hne
  | cons w ws => simp only [runWords, step_offer, takeCommand_with_rsp]

end Sys2Proof.Machine
end

section
/-! Noise in a decode (spec/48_host_contract.md section 5). -/

namespace Sys2Proof.Machine

/-- A run is the run of its first words, then that of the others from where the first led. -/
theorem runWords_append {w v : List Word} {s t u : State} {r1 r2 : List Response} (hw : runWords w s = .next (r1, t))
    (hv : runWords v t = .next (r2, u)) : runWords (w ++ v) s = .next (r1 ++ r2, u) := by
  induction w generalizing s r1 with
  | nil =>
    obtain ⟨rfl, rfl⟩ := Prod.mk.inj (Host.Outcome.next.inj hw)
    exact hv
  | cons x w ih =>
    obtain ⟨y, rs, hx, hrest, rfl⟩ := exists_of_runWords_cons hw
    rw [List.append_assoc]
    exact runWords_cons hx (ih hrest)

/-- Every run of words comes to its end (R246). -/
theorem exists_runWords_eq_next (ws : List Word) (s : State) : ∃ rs t, runWords ws s = .next (rs, t) := by
  induction ws generalizing s with
  | nil => exact ⟨[], s, rfl⟩
  | cons w ws ih =>
    obtain ⟨u, hu, -⟩ := exists_takeCommand_eq_next w s
    obtain ⟨rs, t, hrest⟩ := ih u
    exact ⟨_, t, runWords_cons hu hrest⟩

/-- In a decode a character that is not in the alphabet changes nothing but the response, faulted or not (R147, R214). -/
theorem exists_exec_decp_noise {s : State} {ch : Chr} (hm : s.mode = .dec) (hch : ∀ j : Sym, s.alphaRead j ≠ ch) :
    ∃ r, exec (.decp ch) s = .next { s with rsp := some r } ∧ (s.fcause = .noFault → r = ⟨false, 0⟩) := by
  by_cases hf : s.fcause = .noFault
  · have hskip : decpBody ch s = s.ok := decpBody_of_none (State.lutMatch_eq_none.2 hch)
    exact ⟨_, (exec_of_legal rfl hf hm).trans (congrArg _ hskip), fun _ => rfl⟩
  · exact ⟨_, exec_of_faulted rfl hf, fun h => absurd h hf⟩

/-- Settles O56: the noise writes the response only, which the word after it does not read. -/
theorem noiseChangesNothing : Obligations.NoiseChangesNothing := by
  unfold Obligations.NoiseChangesNothing
  intro s t u v ch r1 r2 w hne hw hm hch hrun
  obtain ⟨r2', u', hv⟩ := exists_runWords_eq_next v t
  obtain ⟨hrs, rfl⟩ := Prod.mk.inj (Host.Outcome.next.inj ((runWords_append hw hv).symm.trans hrun))
  obtain rfl := List.append_cancel_left hrs
  obtain ⟨r, hnoise, hr⟩ := exists_exec_decp_noise hm hch
  have htake := (takeCommand_of_ok t (decode_encode (.decp ch))).trans hnoise
  have hrest := (runWords_with_rsp hne t (some r)).trans hv
  exact ⟨r, runWords_append hw (runWords_cons htake hrest), hr⟩

end Sys2Proof.Machine
end

section
/-! Loading the key and the alphabet (spec/48_host_contract.md R193, R194). -/

namespace Sys2Proof.Machine

/-- What one command a datum keeps of the data given so far holds of all of them at the end of the run. -/
theorem of_runInstrs_map {α : Type} {f : α → Instr} {P : List α → State → Prop}
    (hstep : ∀ as a u v, P as u → exec (f a) u = .next v → P (as ++ [a]) v) {pre as : List α} {s t : State}
    {rs : List Response} (h : P pre s) (hrun : runInstrs (as.map f) s = .next (rs, t)) : P (pre ++ as) t := by
  induction as generalizing pre s rs with
  | nil =>
    obtain ⟨-, rfl⟩ := eq_of_runInstrs_nil hrun
    simpa using h
  | cons a as ih =>
    obtain ⟨u, rs', hu, hrest, -⟩ := exists_of_runInstrs_cons hrun
    simpa using ih (hstep pre a s u h hu) hrest

namespace State

/-- A read of a key entry by its number. -/
theorem keyRead_ofNat_of_entry {s : State} {j : Nat} {b : Byte} (hj : j < 256) (h : s.keyEntry j = some b) :
    s.keyRead (BitVec.ofNat 8 j) = b := by
  refine keyRead_of_entry ?_
  rwa [BitVec.toNat_ofNat, Nat.mod_eq_of_lt hj]

/-- The key that holds the bytes `k` in its first entries and nothing more is `k`. -/
theorem keyBytes_eq_of_entries {s : State} {k : List Byte} (hlen : s.keylen.toNat = k.length)
    (h : ∀ j b, k[j]? = some b → s.keyEntry j = some b) : s.keyBytes = k := by
  have hmax := s.keylen.isLt
  refine List.ext_getElem (by simp [keyBytes, hlen]) fun j _ hj => ?_
  simp only [keyBytes, List.getElem_map, List.getElem_range]
  exact keyRead_ofNat_of_entry (by omega) (h j _ (List.getElem?_eq_getElem hj))

/-- What loading the bytes `pre` into the key of `s` leaves (R193). -/
structure KeyLoaded (s : State) (pre : List Byte) (u : State) : Prop where
  inv : u.Inv
  frame : u = { s with key := u.key, keylen := u.keylen, rsp := some ⟨false, 0⟩ }
  keylen : u.keylen.toNat = pre.length
  entries : ∀ j b, pre[j]? = some b → u.keyEntry j = some b

section load
variable {s : State} (hf : s.fcause = .noFault) (hm : s.mode = .idle)
include hf hm

/-- `KCLR` leaves the key with no byte in it (R105). -/
theorem keyLoaded_nil_of_exec_kclr (hinv : s.Inv) {u : State} (hu : exec .kclr s = .next u) : s.KeyLoaded [] u := by
  have hinv' := exec_keeps_inv hinv hu
  rw [exec_of_legal rfl hf hm] at hu
  obtain rfl : kclrBody s = u := Host.Outcome.next.inj hu
  exact ⟨hinv', rfl, rfl, by simp⟩

/-- `KPUSH` with room adds one byte behind those loaded (R106). -/
theorem KeyLoaded.kpush {pre : List Byte} {u v : State} (h : s.KeyLoaded pre u) {b : Byte}
    (hroom : pre.length < s.params.keyMax) (hv : exec (.kpush b) u = .next v) : s.KeyLoaded (pre ++ [b]) v := by
  have hinv := exec_keeps_inv h.inv hv
  have hfu : u.fcause = .noFault := (congrArg State.fcause h.frame).trans hf
  have hmu : u.mode = .idle := (congrArg State.mode h.frame).trans hm
  have hlt : u.keylen.toNat < u.params.keyMax := by rw [h.keylen, h.frame]; exact hroom
  rw [exec_of_legal rfl hfu hmu] at hv
  obtain rfl : kpushBody b u = v := Host.Outcome.next.inj hv
  refine ⟨hinv, ?_, ?_, fun j c hc => ?_⟩
  · rw [kpushBody_of_lt b hlt, h.frame]
    rfl
  · rw [kpushBody_keylen h.inv.keyInv hlt, h.keylen, List.length_append, List.length_singleton]
  · rw [kpushBody_keyEntry h.inv.keyInv hlt, h.keylen]
    split_ifs with hj
    · simpa [hj] using hc
    · have hbefore : j < pre.length := by
        have hin := (List.getElem?_eq_some_iff.1 hc).1
        rw [List.length_append, List.length_singleton] at hin
        omega
      exact h.entries j c (by rwa [List.getElem?_append_left hbefore] at hc)

/-- The run that loads a key which fits leaves it (R193). -/
theorem keyLoaded_of_runInstrs (hinv : s.Inv) {k : List Byte} (hk : k.length ≤ s.params.keyMax) {rs : List Response}
    {t : State} (hrun : runInstrs (loadKey k) s = .next (rs, t)) : s.KeyLoaded k t := by
  obtain ⟨u, rs', hu, hrest, -⟩ := exists_of_runInstrs_cons hrun
  have hstep (pre : List Byte) (b : Byte) (u v : State) (h : pre.length ≤ s.params.keyMax → s.KeyLoaded pre u)
      (hv : exec (.kpush b) u = .next v) (hfits : (pre ++ [b]).length ≤ s.params.keyMax) :
      s.KeyLoaded (pre ++ [b]) v := by
    rw [List.length_append, List.length_singleton] at hfits
    exact (h (by omega)).kpush hf hm (by omega) hv
  exact of_runInstrs_map hstep (fun _ => keyLoaded_nil_of_exec_kclr hf hm hinv hu) hrest hk

end load

end State

/-- The commands that load a key are gated and return no data (R89). -/
theorem loadKey_plain (k : List Byte) :
    ∀ i ∈ loadKey k, alwaysLegal i = false ∧ ∀ u, answerData i u = some 0 := by
  simp only [loadKey, List.mem_cons, List.mem_map]
  rintro i (rfl | ⟨b, -, rfl⟩) <;> exact ⟨rfl, fun _ => rfl⟩

/-- Settles O57: the loaded entries are the key bytes, by induction on the bytes pushed. -/
theorem loadKeyLeavesTheKey : Obligations.LoadKeyLeavesTheKey := by
  unfold Obligations.LoadKeyLeavesTheKey
  intro s k hinv hm hf _ hmax
  obtain ⟨rs, t, hrun⟩ := exists_runInstrs_eq_next (loadKey k) s
  have h := State.keyLoaded_of_runInstrs hf hm hinv hmax hrun
  refine ⟨rs, t, hrun, ?_, State.keyBytes_eq_of_entries h.keylen h.entries, h.keylen, h.frame⟩
  rcases runInstrs_responses (loadKey_plain k) hf hrun with ⟨-, hrs⟩ | ⟨hfault, -⟩
  · exact hrs
  · exact absurd ((congrArg State.fcause h.frame).trans hf) hfault

/-- The eight slots of the alphabet. -/
def slots : List Sym := [0, 1, 2, 3, 4, 5, 6, 7]

theorem mem_slots (i : Sym) : i ∈ slots := by
  revert i
  decide

/-- The commands that load a candidate of eight characters, slot by slot (R194). -/
theorem loadAlphabet_of_length {c : List Chr} (h : c.length = 8) :
    loadAlphabet c = some (slots.map (fun i => .lda i (c.getD i.toNat 0)) ++ [.chka]) := by
  match c, h with
  | [_, _, _, _, _, _, _, _], _ => rfl

namespace State

/-- What loading the slots `is` of `s` with the characters `ch` leaves (R194). -/
structure AlphaLoaded (s : State) (ch : Sym → Chr) (is : List Sym) (u : State) : Prop where
  frame : u = { s with alpha := u.alpha, aloaded := u.aloaded, alphaOk := u.alphaOk, rsp := u.rsp }
  loaded : ∀ i ∈ is, u.aloaded.getLsbD i.toNat = true
  entries : ∀ i ∈ is, u.alphaEntry i = some (ch i)

/-- `LDA` loads one slot more (R102). -/
theorem AlphaLoaded.lda {s u v : State} {ch : Sym → Chr} {is : List Sym} {i : Sym} (h : s.AlphaLoaded ch is u)
    (hf : s.fcause = .noFault) (hm : s.mode = .idle) (hv : exec (.lda i (ch i)) u = .next v) :
    s.AlphaLoaded ch (is ++ [i]) v := by
  rw [exec_of_legal rfl ((congrArg State.fcause h.frame).trans hf) ((congrArg State.mode h.frame).trans hm)] at hv
  obtain rfl : ldaBody i (ch i) u = v := Host.Outcome.next.inj hv
  refine ⟨by rw [h.frame]; rfl, fun j hj => ?_, fun j hj => ?_⟩ <;>
    rw [List.mem_append, List.mem_singleton] at hj
  · have hbit : (ldaBody i (ch i) u).aloaded.getLsbD j.toNat = (u.aloaded.getLsbD j.toNat || decide (j = i)) :=
      setLoaded_getLsbD u.aloaded i j
    rw [hbit, Bool.or_eq_true, decide_eq_true_iff]
    exact hj.imp_left (h.loaded j)
  · rw [ldaBody_alphaEntry]
    split_ifs with hji
    · rw [hji]
    · exact h.entries j (hj.resolve_right hji)

/-- With all slots loaded the alphabet is the candidate. -/
theorem AlphaLoaded.aloaded_and_alphabet {s u : State} {c : List Chr} (hc : c.length = 8)
    (h : s.AlphaLoaded (fun i => c.getD i.toNat 0) slots u) : u.aloaded = 0xFF#8 ∧ u.alphabet.toList = c := by
  constructor
  · refine BitVec.eq_of_getLsbD_eq fun n hn => ?_
    have hones : ∀ k : Sym, (0xFF#8).getLsbD k.toNat = true := by decide
    exact (h.loaded (BitVec.ofFin ⟨n, hn⟩) (mem_slots _)).trans (hones (BitVec.ofFin ⟨n, hn⟩)).symm
  · refine List.ext_getElem (by simp [hc]) fun n hn' hc' => ?_
    have hn : n < 8 := by simpa using hn'
    have hread := alphaRead_of_entry (h.entries (BitVec.ofFin ⟨n, hn⟩) (mem_slots _))
    rw [Vector.getElem_toList, ← List.getD_eq_getElem c 0 hc']
    exact (u.alphabet_getElem _).trans hread

end State

/-- Settles O58: the eight `LDA`s leave the candidate in `ALPHA`, all slots loaded, and `CHKA` checks it. -/
theorem loadAlphabetChecks : Obligations.LoadAlphabetChecks := by
  unfold Obligations.LoadAlphabetChecks
  refine ⟨fun c hc => if_neg hc, fun s c _ hm hf hc => ?_⟩
  obtain ⟨rs, t, hrun⟩ :=
    exists_runInstrs_eq_next (slots.map (fun i => .lda i (c.getD i.toNat 0)) ++ [.chka]) s
  refine ⟨_, rs, t, loadAlphabet_of_length hc, hrun, ?_⟩
  obtain ⟨u, hu, ht⟩ := exists_of_runInstrs_map_concat (P := s.AlphaLoaded fun i => c.getD i.toNat 0) (pre := [])
    (fun is i u v h hv => h.lda hf hm hv) ⟨rfl, by simp, by simp⟩ hrun
  have hfu : u.fcause = .noFault := (congrArg State.fcause hu.frame).trans hf
  rw [exec_of_legal rfl hfu ((congrArg State.mode hu.frame).trans hm)] at ht
  obtain rfl : chkaBody u = t := Host.Outcome.next.inj ht
  obtain ⟨hloaded, halpha⟩ := hu.aloaded_and_alphabet hc
  cases hcheck : checkCharset c with
  | true =>
    rw [chkaBody_of_distinct hloaded (halpha ▸ hcheck)]
    exact ⟨halpha, fun _ => ⟨rfl, hfu⟩, nofun⟩
  | false =>
    rw [chkaBody_of_not_distinct hfu (.inr (halpha ▸ hcheck))]
    exact ⟨halpha, nofun, fun _ => ⟨rfl, rfl⟩⟩

end Sys2Proof.Machine
end

section
/-! Key derivation (spec/48_host_contract.md R190 to R192). -/

namespace Sys2Proof.Machine

/-- The lowercase hex digits in the order of their values (R190). -/
def hexDigits : List Char := "0123456789abcdef".toList

/-- The digit of a value stands at the place of the value. -/
theorem hexDigits_getElem? (d : Fin 16) : hexDigits[d.val]? = some (hexChar d) := by
  revert d
  decide

theorem hexDigits_length : hexDigits.length = 16 := by decide

/-- The place of a digit is the value it is the digit of. -/
theorem eq_of_hexDigits_getElem? {x : Nat} {d : Fin 16} (h : hexDigits[x]? = some (hexChar d)) : x = d.val := by
  obtain ⟨hx, -⟩ := List.getElem?_eq_some_iff.1 h
  have hplace := hexDigits_getElem? ⟨x, hexDigits_length ▸ hx⟩
  have hval := congrArg hexVal (Option.some.inj (h.symm.trans hplace))
  simpa using hval.symm

/-- A hex digit is the digit of a value. -/
theorem exists_of_mem_hexDigits {c : Char} (h : c ∈ hexDigits) : ∃ d, c = hexChar d := by
  obtain ⟨x, hx, rfl⟩ := List.getElem_of_mem h
  have hplace := hexDigits_getElem? ⟨x, hexDigits_length ▸ hx⟩
  rw [List.getElem?_eq_getElem hx] at hplace
  exact ⟨_, Option.some.inj hplace⟩

/-- The digits of a digest by their pair: the high one first (R192). -/
theorem digestString_getElem? (ps : List HexPair) (j : Nat) :
    (digestString ps)[2 * j]? = ps[j]?.map (hexChar ·.high) ∧
    (digestString ps)[2 * j + 1]? = ps[j]?.map (hexChar ·.low) := by
  induction ps generalizing j with
  | nil => simp
  | cons p ps ih =>
    cases j with
    | zero => simp
    | succ j =>
      have hplace : 2 * (j + 1) = 2 * j + 1 + 1 := by omega
      simpa [hplace] using ih j

/-- A string of hex digits of even length is a digest of pairs (R190, R192). -/
theorem exists_digestString_eq {n : Nat} {digest : List Char} (hlen : digest.length = 2 * n)
    (hmem : ∀ c ∈ digest, c ∈ hexDigits) : ∃ ps, digestString ps = digest ∧ ps.length = n := by
  induction n generalizing digest with
  | zero =>
    obtain rfl : digest = [] := List.eq_nil_of_length_eq_zero hlen
    exact ⟨[], rfl, rfl⟩
  | succ n ih =>
    match digest, hlen, hmem with
    | [], hlen, _ => simp at hlen
    | [_], hlen, _ => rw [List.length_singleton] at hlen; omega
    | a :: b :: rest, hlen, hmem =>
      obtain ⟨ha, hb, hrest⟩ := by simpa using hmem
      obtain ⟨high, rfl⟩ := exists_of_mem_hexDigits ha
      obtain ⟨low, rfl⟩ := exists_of_mem_hexDigits hb
      obtain ⟨ps, rfl, rfl⟩ := ih (by simpa [Nat.mul_succ] using hlen) hrest
      exact ⟨⟨high, low⟩ :: ps, rfl, rfl⟩

/-- The byte of a pair of digits (R192). -/
def pairByte (p : HexPair) : Byte := BitVec.ofNat 8 (16 * p.high.val + p.low.val)

theorem pairByte_toNat (p : HexPair) : (pairByte p).toNat = 16 * p.high.val + p.low.val := by
  have := p.high.isLt
  have := p.low.isLt
  rw [pairByte, BitVec.toNat_ofNat]
  omega

/-- A digest that is not empty gives one byte for each pair (R192). -/
theorem deriveBytes_digestString {ps : List HexPair} (hne : ps ≠ []) :
    deriveBytes (digestString ps) = some (ps.map pairByte) := by
  cases ps with
  | nil => exact absurd rfl hne
  | cons p ps => exact hexPairs_digestString (p :: ps)

/-- Every key string gives at least one key byte: the empty digest gives the neutral key (R191, R192). -/
theorem exists_keyBytesOf (key : Option (List Nat)) : ∃ k, keyBytesOf key = some k ∧ 1 ≤ k.length := by
  rw [keyBytesOf, hashString]
  cases Config.hash (key.getD []) with
  | nil => exact ⟨[0], rfl, Nat.le_refl 1⟩
  | cons p ps => exact ⟨_, deriveBytes_digestString (List.cons_ne_nil p ps), by simp⟩

/-- Settles O60: a string within the hash contract is a digest of pairs, and each pair is read as its byte. -/
theorem keyStringGivesKeyBytes : Obligations.KeyStringGivesKeyBytes := by
  unfold Obligations.KeyStringGivesKeyBytes
  refine ⟨fun text => ⟨?_, fun c hc => ?_⟩, rfl, fun digest n hlen hpos hmem => ?_, exists_keyBytesOf, rfl,
    fun _ => rfl⟩
  · rw [hashString, digestString_length, Nat.mul_mod_right]
  · obtain ⟨d, rfl⟩ := exists_of_mem_digestString hc
    exact List.mem_of_getElem? (hexDigits_getElem? d)
  · obtain ⟨ps, rfl, rfl⟩ := exists_digestString_eq hlen hmem
    refine ⟨_, deriveBytes_digestString (List.ne_nil_of_length_pos hpos), List.length_map .., ?_⟩
    intro j x y hi lo hhi hlo hx hy
    obtain ⟨hhigh, hlow⟩ := digestString_getElem? ps j
    rw [hhigh] at hhi
    rw [hlow] at hlo
    obtain ⟨p, hp, rfl⟩ := Option.map_eq_some_iff.1 hhi
    obtain ⟨p', hp', rfl⟩ := Option.map_eq_some_iff.1 hlo
    obtain rfl : p = p' := Option.some.inj (hp.symm.trans hp')
    refine ⟨pairByte p, by rw [List.getElem?_map, hp, Option.map_some], ?_⟩
    rw [pairByte_toNat, eq_of_hexDigits_getElem? hx, eq_of_hexDigits_getElem? hy]

end Sys2Proof.Machine
end

section
/-! Text to bytes and back (spec/48_host_contract.md R196, R197). -/

namespace Sys2Proof.Machine

section deserialize
variable {a : Byte} (b c d : Byte) (rest : List Byte)

/-- Bytes to text, by the lead byte of a character (R197). -/
theorem deserialize_one (h : a.toNat < 0x80) : deserialize (a :: rest) = (deserialize rest).map (a.toNat :: ·) := by
  rw [deserialize.eq_def]
  exact if_pos h

theorem deserialize_two (h : 0x80 ≤ a.toNat) (h' : a.toNat < 0xE0) :
    deserialize (a :: b :: rest) = (deserialize rest).map ((lowBits 5 a * 64 + lowBits 6 b) :: ·) := by
  rw [deserialize.eq_def]
  exact (if_neg (Nat.not_lt_of_le h)).trans (if_pos h')

theorem deserialize_three (h : 0xE0 ≤ a.toNat) (h' : a.toNat < 0xF0) :
    deserialize (a :: b :: c :: rest) =
      (deserialize rest).map ((lowBits 4 a * 4096 + lowBits 6 b * 64 + lowBits 6 c) :: ·) := by
  have hlead : ¬ a < 0x80#8 := Nat.not_lt_of_le (Nat.le_trans (by decide) h)
  rw [deserialize.eq_def]
  exact (if_neg hlead).trans ((if_neg (Nat.not_lt_of_le h)).trans (if_pos h'))

theorem deserialize_four (h : 0xF0 ≤ a.toNat) :
    deserialize (a :: b :: c :: d :: rest) =
      (deserialize rest).map ((lowBits 3 a * 262144 + lowBits 6 b * 4096 + lowBits 6 c * 64 + lowBits 6 d) :: ·) := by
  have hlead : ¬ a < 0x80#8 := Nat.not_lt_of_le (Nat.le_trans (by decide) h)
  have hlead' : ¬ a < 0xE0#8 := Nat.not_lt_of_le (Nat.le_trans (by decide) h)
  rw [deserialize.eq_def]
  exact (if_neg hlead).trans ((if_neg hlead').trans (if_neg (Nat.not_lt_of_le h)))

end deserialize

/-- A continuation byte as a number. -/
theorem contByte_toNat (x : Nat) : (contByte x).toNat = 0x80 + x % 64 := by
  rw [contByte, BitVec.toNat_ofNat]
  omega

/-- A continuation byte `10xxxxxx` (R160). -/
abbrev IsCont (b : Byte) : Prop := 0x80 ≤ b.toNat ∧ b.toNat ≤ 0xBF

/-- A continuation byte is the one of its low six bits. -/
theorem contByte_eq {b : Byte} (h : IsCont b) {x : Nat} (hx : x % 64 = b.toNat % 64) : contByte x = b := by
  obtain ⟨hlow, hhigh⟩ := h
  refine BitVec.eq_of_toNat_eq ?_
  rw [contByte_toNat]
  omega

/-- The characters of the table by their length: the second byte keeps out overlong forms, surrogates and what is above
0x10FFFF (R160). -/
def IsChar : List Byte → Prop
  | [a] => a.toNat ≤ 0x7F
  | [a, b] => (0xC2 ≤ a.toNat ∧ a.toNat ≤ 0xDF) ∧ IsCont b
  | [a, b, c] => (0xE0 ≤ a.toNat ∧ a.toNat ≤ 0xEF) ∧ IsCont b ∧ IsCont c ∧
      (a.toNat = 0xE0 → 0xA0 ≤ b.toNat) ∧ (a.toNat = 0xED → b.toNat ≤ 0x9F)
  | [a, b, c, d] => (0xF0 ≤ a.toNat ∧ a.toNat ≤ 0xF4) ∧ IsCont b ∧ IsCont c ∧ IsCont d ∧
      (a.toNat = 0xF0 → 0x90 ≤ b.toNat) ∧ (a.toNat = 0xF4 → b.toNat ≤ 0x8F)
  | _ => False

/-- A sequence matches a row of the table exactly when it is a character. -/
theorem exists_row_iff_isChar (q : List Byte) : (∃ row ∈ utf8Table, matchesRow q row = true) ↔ IsChar q := by
  match q with
  | [] => simp [utf8Table, matchesRow, IsChar]
  | [a] => simp [utf8Table, matchesRow, IsChar, BitVec.le_def]
  | [a, b] => simp [utf8Table, matchesRow, IsChar, BitVec.le_def]
  | [a, b, c] =>
    simp [utf8Table, matchesRow, IsChar, BitVec.le_def]
    omega
  | [a, b, c, d] =>
    simp [utf8Table, matchesRow, IsChar, BitVec.le_def]
    omega
  | _ :: _ :: _ :: _ :: _ :: _ => simp [utf8Table, matchesRow, IsChar]

/-- The bytes of a code point are a character of the table, and are read back as the code point, whatever follows. -/
structure Serialized (c : Nat) (q : List Byte) : Prop where
  isChar : IsChar q
  readBack : ∀ rest, deserialize (q ++ rest) = (deserialize rest).map (c :: ·)

theorem serialized_one {c : Nat} (h : c ≤ 0x7F) : Serialized c [BitVec.ofNat 8 c] := by
  have hlead : (BitVec.ofNat 8 c).toNat = c := by rw [BitVec.toNat_ofNat]; omega
  refine ⟨?_, fun rest => ?_⟩
  · rw [IsChar, hlead]
    exact h
  · rw [List.singleton_append, deserialize_one _ (by omega), hlead]

theorem serialized_two {c : Nat} (h : 0x7F < c) (h' : c ≤ 0x7FF) :
    Serialized c [BitVec.ofNat 8 (0xC0 + c / 64), contByte c] := by
  have hlead : (BitVec.ofNat 8 (0xC0 + c / 64)).toNat = 0xC0 + c / 64 := by rw [BitVec.toNat_ofNat]; omega
  have hcode : lowBits 5 (BitVec.ofNat 8 (0xC0 + c / 64)) * 64 + lowBits 6 (contByte c) = c := by
    simp only [lowBits, hlead, contByte_toNat]
    omega
  refine ⟨?_, fun rest => ?_⟩
  · simp only [IsChar, IsCont, hlead, contByte_toNat]
    omega
  · rw [List.cons_append, List.singleton_append, deserialize_two _ _ (by omega) (by omega), hcode]

theorem serialized_three {c : Nat} (h : 0x7FF < c) (hs : ¬ (0xD800 ≤ c ∧ c ≤ 0xDFFF)) (h' : c ≤ 0xFFFF) :
    Serialized c [BitVec.ofNat 8 (0xE0 + c / 4096), contByte (c / 64), contByte c] := by
  have hlead : (BitVec.ofNat 8 (0xE0 + c / 4096)).toNat = 0xE0 + c / 4096 := by rw [BitVec.toNat_ofNat]; omega
  have hcode : lowBits 4 (BitVec.ofNat 8 (0xE0 + c / 4096)) * 4096 + lowBits 6 (contByte (c / 64)) * 64 +
      lowBits 6 (contByte c) = c := by
    simp only [lowBits, hlead, contByte_toNat]
    omega
  refine ⟨?_, fun rest => ?_⟩
  · simp only [IsChar, IsCont, hlead, contByte_toNat]
    omega
  · rw [List.cons_append, List.cons_append, List.singleton_append, deserialize_three _ _ _ (by omega) (by omega), hcode]

theorem serialized_four {c : Nat} (h : 0xFFFF < c) (h' : c ≤ 0x10FFFF) :
    Serialized c [BitVec.ofNat 8 (0xF0 + c / 262144), contByte (c / 4096), contByte (c / 64), contByte c] := by
  have hlead : (BitVec.ofNat 8 (0xF0 + c / 262144)).toNat = 0xF0 + c / 262144 := by rw [BitVec.toNat_ofNat]; omega
  have hcode : lowBits 3 (BitVec.ofNat 8 (0xF0 + c / 262144)) * 262144 + lowBits 6 (contByte (c / 4096)) * 4096 +
      lowBits 6 (contByte (c / 64)) * 64 + lowBits 6 (contByte c) = c := by
    simp only [lowBits, hlead, contByte_toNat]
    omega
  refine ⟨?_, fun rest => ?_⟩
  · simp only [IsChar, IsCont, hlead, contByte_toNat]
    omega
  · rw [List.cons_append, List.cons_append, List.cons_append, List.singleton_append, deserialize_four _ _ _ _ (by omega),
      hcode]

/-- The layout of R196, by the size of the code point. -/
theorem serialized_of_serializeOne {c : Nat} {q : List Byte} (h : serializeOne c = some q) : Serialized c q := by
  unfold serializeOne at h
  split_ifs at h with h1 h2 hs h3 h4 <;> obtain rfl := Option.some.inj h
  · exact serialized_one h1
  · exact serialized_two (by omega) h2
  · exact serialized_three (by omega) hs h3
  · exact serialized_four (by omega) h4

/-- A lead byte is the one whose number it is. -/
theorem ofNat_eq_of_eq_toNat {a : Byte} {x : Nat} (h : x = a.toNat) : BitVec.ofNat 8 x = a := by
  rw [h, BitVec.ofNat_toNat, BitVec.setWidth_eq]

theorem serializeOne_two {a b : Byte} (h : IsChar [a, b]) :
    serializeOne (lowBits 5 a * 64 + lowBits 6 b) = some [a, b] := by
  obtain ⟨ha, hb⟩ := h
  generalize hn : lowBits 5 a * 64 + lowBits 6 b = n
  simp only [lowBits] at hn
  rw [serializeOne, if_neg (by omega), if_pos (by omega), ofNat_eq_of_eq_toNat (a := a) (by omega),
    contByte_eq hb (by omega)]

theorem serializeOne_three {a b c : Byte} (h : IsChar [a, b, c]) :
    serializeOne (lowBits 4 a * 4096 + lowBits 6 b * 64 + lowBits 6 c) = some [a, b, c] := by
  obtain ⟨ha, hb, hc, hlow, hsurrogate⟩ := h
  generalize hn : lowBits 4 a * 4096 + lowBits 6 b * 64 + lowBits 6 c = n
  simp only [lowBits] at hn
  rw [serializeOne, if_neg (by omega), if_neg (by omega), if_neg (by omega), if_pos (by omega),
    ofNat_eq_of_eq_toNat (a := a) (by omega), contByte_eq hb (by omega), contByte_eq hc (by omega)]

theorem serializeOne_four {a b c d : Byte} (h : IsChar [a, b, c, d]) :
    serializeOne (lowBits 3 a * 262144 + lowBits 6 b * 4096 + lowBits 6 c * 64 + lowBits 6 d) = some [a, b, c, d] := by
  obtain ⟨ha, hb, hc, hd, hlow, hhigh⟩ := h
  generalize hn : lowBits 3 a * 262144 + lowBits 6 b * 4096 + lowBits 6 c * 64 + lowBits 6 d = n
  simp only [lowBits] at hn
  rw [serializeOne, if_neg (by omega), if_neg (by omega), if_neg (by omega), if_neg (by omega), if_pos (by omega),
    ofNat_eq_of_eq_toNat (a := a) (by omega), contByte_eq hb (by omega), contByte_eq hc (by omega),
    contByte_eq hd (by omega)]

/-- Every character is the bytes of a code point (R160, R196). -/
theorem exists_serializeOne_of_isChar {q : List Byte} (h : IsChar q) : ∃ c, serializeOne c = some q := by
  match q, h with
  | [a], h => exact ⟨a.toNat, (if_pos h).trans (by rw [ofNat_eq_of_eq_toNat rfl])⟩
  | [_, _], h => exact ⟨_, serializeOne_two h⟩
  | [_, _, _], h => exact ⟨_, serializeOne_three h⟩
  | [_, _, _, _], h => exact ⟨_, serializeOne_four h⟩

/-- Text to bytes, code point by code point (R196). -/
theorem serialize_cons_eq_some_iff {c : Nat} {text : List Nat} {bs : List Byte} :
    serialize (c :: text) = some bs ↔
      ∃ q bs', serializeOne c = some q ∧ serialize text = some bs' ∧ q ++ bs' = bs := by
  rw [serialize]
  cases serializeOne c <;> cases serialize text <;> simp

/-- Text to bytes gives valid UTF-8, which reads back as the text (R196, R197). -/
theorem utf8Valid_and_deserialize_of_serialize {text : List Nat} {bs : List Byte} (h : serialize text = some bs) :
    utf8Valid bs ∧ deserialize bs = some text := by
  induction text generalizing bs with
  | nil =>
    obtain rfl : [] = bs := Option.some.inj h
    exact ⟨utf8Valid_nil, rfl⟩
  | cons c text ih =>
    obtain ⟨q, bs', hq, hrest, rfl⟩ := serialize_cons_eq_some_iff.1 h
    obtain ⟨hvalid, hback⟩ := ih hrest
    obtain ⟨hchar, hread⟩ := serialized_of_serializeOne hq
    obtain ⟨row, hrow, hmatch⟩ := (exists_row_iff_isChar q).2 hchar
    exact ⟨utf8Valid_append hrow hmatch hvalid, by rw [hread, hback, Option.map_some]⟩

/-- Valid UTF-8 is the bytes of a text (R196, R197). -/
theorem exists_serialize_of_utf8Valid {bs : List Byte} (h : utf8Valid bs) : ∃ text, serialize text = some bs := by
  obtain ⟨qs, hqs, rfl⟩ := h
  induction qs with
  | nil => exact ⟨[], rfl⟩
  | cons q qs ih =>
    obtain ⟨hchar, hrest⟩ := List.forall_mem_cons.1 hqs
    obtain ⟨c, hc⟩ := exists_serializeOne_of_isChar ((exists_row_iff_isChar q).1 hchar)
    obtain ⟨text, htext⟩ := ih hrest
    exact ⟨c :: text, serialize_cons_eq_some_iff.2 ⟨q, _, hc, htext, rfl⟩⟩

/-- Settles O59: the characters of the table and the code points of R196 are each other's bytes. -/
theorem textConversionsAreInverse : Obligations.TextConversionsAreInverse := by
  unfold Obligations.TextConversionsAreInverse
  refine ⟨fun text bs => utf8Valid_and_deserialize_of_serialize, fun bs h => ?_⟩
  obtain ⟨text, htext⟩ := exists_serialize_of_utf8Valid h
  obtain ⟨-, hback⟩ := utf8Valid_and_deserialize_of_serialize htext
  exact ⟨text, hback, htext⟩

end Sys2Proof.Machine
end

section
/-! The round trip (spec/48_host_contract.md section 5): each stage of the decode path takes back the stage of the encode
path, and neither transaction changes the configuration. -/

namespace Sys2Proof.Machine

/-- The bits of a byte in front are read as that byte (R121, R142). -/
theorem splitOctets_bitsOf_append (b : Byte) (bits : Bits) : splitOctets (bitsOf b ++ bits) = b :: splitOctets bits := by
  have hbits : bitsOf b = [b.getLsbD 7, b.getLsbD 6, b.getLsbD 5, b.getLsbD 4, b.getLsbD 3, b.getLsbD 2, b.getLsbD 1,
    b.getLsbD 0] := rfl
  have hoctet : octetOf (b.getLsbD 7) (b.getLsbD 6) (b.getLsbD 5) (b.getLsbD 4) (b.getLsbD 3) (b.getLsbD 2)
      (b.getLsbD 1) (b.getLsbD 0) = b := by
    revert b
    decide
  rw [hbits]
  exact congrArg (· :: splitOctets bits) hoctet

theorem splitOctets_joinOctets (bs : List Byte) : splitOctets (joinOctets bs) = bs := by
  induction bs with
  | nil => rfl
  | cons b bs ih => rw [joinOctets_cons, splitOctets_bitsOf_append, ih]

namespace State

/-- In a checked alphabet no two entries are equal (R23, R103). -/
theorem AlphaInv.alphaRead_ne {s : State} (h : s.AlphaInv) (hok : s.alphaOk = true) {i j : Sym} (hij : i.toNat < j.toNat) :
    s.alphaRead i ≠ s.alphaRead j := by
  obtain ⟨-, hdist⟩ := h.checked hok
  exact s.checkCharset_alphabet_iff.1 ((checkCharset_eq_true_iff _).2 ⟨by simp, hdist⟩) i j hij

/-- In a checked alphabet the character of a symbol is found as that symbol (R123, R140). -/
theorem AlphaInv.decodeCharset_encodeCharset {s : State} (h : s.AlphaInv) (hok : s.alphaOk = true) (xs : List Sym) :
    decodeCharset (encodeCharset xs s.alphabet) s.alphabet = xs := by
  have hfound (x : Sym) : indexIn s.alphabet (s.alphaRead x) = some x := by
    rw [← lutMatch_eq_indexIn]
    exact lutMatch_eq_some_iff.2 ⟨rfl, fun j hj => h.alphaRead_ne hok hj⟩
  simp only [decodeCharset, encodeCharset, alphabet_getElem, List.filterMap_map, Function.comp_def, hfound,
    List.filterMap_some]

/-- Decoding the characters of an encode gives the bytes back, stage by stage. -/
theorem AlphaInv.unshift_decode_encode {s : State} (h : s.AlphaInv) (hok : s.alphaOk = true) (bs key : List Byte) :
    unshift (splitOctets (joinTriplets (decodeCharset
      (encodeCharset (splitTriplets (joinOctets (shift bs key))) s.alphabet) s.alphabet))) key = bs := by
  have hwhole : (joinOctets (shift bs key)).length % 8 = 0 := by rw [joinOctets_length, Nat.mul_mod_right]
  rw [h.decodeCharset_encodeCharset hok, (joinTriplets_splitTriplets_eq_self_iff _).2 hwhole, splitOctets_joinOctets,
    unshift_shift]

namespace SameConfiguration
variable {s t : State} (h : s.SameConfiguration t)
include h

theorem alphabet : t.alphabet = s.alphabet := by simp only [State.alphabet, alphaRead, h.alpha]

theorem keyBytes : t.keyBytes = s.keyBytes := by simp only [State.keyBytes, keyRead, h.key, h.keylen]

end SameConfiguration

end State

/-- A run of commands that do not configure leaves the configuration. -/
theorem runInstrs_keeps_configuration {is : List Instr} {s t : State} {rs : List Response}
    (hplain : ∀ i ∈ is, configures i = false) (hrun : runInstrs is s = .next (rs, t)) : s.SameConfiguration t := by
  induction is generalizing s rs with
  | nil =>
    obtain ⟨-, rfl⟩ := eq_of_runInstrs_nil hrun
    exact ⟨rfl, rfl, rfl, rfl, rfl, rfl, rfl⟩
  | cons i is ih =>
    obtain ⟨u, rs', hu, hrest, -⟩ := exists_of_runInstrs_cons hrun
    obtain ⟨hi, his⟩ := List.forall_mem_cons.1 hplain
    exact (exec_keeps_configuration hi hu).trans (ih his hrest)

theorem configures_encodeTransaction (bs : List Byte) : ∀ i ∈ encodeTransaction bs, configures i = false := by
  simp only [encodeTransaction, List.mem_cons, List.mem_append, List.mem_map, List.not_mem_nil, or_false]
  rintro i (rfl | ⟨b, -, rfl⟩ | rfl) <;> rfl

/-- After an encode `CLR` leaves a state ready for the decode, with the same configuration (R101). -/
theorem exists_clr_of_encode {s t : State} {bs : List Byte} {rs : List Response} (hinv : s.Inv) (hready : s.Ready)
    (hrun : runInstrs (encodeTransaction bs) s = .next (rs, t)) :
    ∃ u, exec .clr t = .next u ∧ u.Inv ∧ u.Ready ∧ s.SameConfiguration u := by
  have hconf := runInstrs_keeps_configuration (configures_encodeTransaction bs) hrun
  have hinvt : t.Inv := runWords_induction (fun _ _ _ => takeCommand_keeps_inv) hinv hrun
  obtain ⟨-, -, hok, hkey⟩ := hready
  refine ⟨t.clearTransaction.ok, rfl, hinvt.clearTransaction.ok, ⟨rfl, rfl, hconf.alphaOk.trans hok, ?_⟩, ?_⟩
  · exact hconf.keylen ▸ hkey
  · exact hconf.trans ⟨rfl, rfl, rfl, rfl, rfl, rfl, rfl⟩

/-- Settles O55: the decode law of the encoded characters, whose plain bytes are those encoded. -/
theorem roundTrip : Obligations.RoundTrip := by
  unfold Obligations.RoundTrip
  intro s B hinv hready hroom
  obtain ⟨r1, t, hrun, hencoded, hclean⟩ := encodeTransactionLaw s B hinv hready
  obtain ⟨hrb, -⟩ := hencoded fun r hr => by rw [hclean hroom r hr]
  obtain ⟨w, hclr, hinvw, hreadyw, hconf⟩ := exists_clr_of_encode hinv hready hrun
  obtain ⟨-, -, hok, -⟩ := hready
  have hplain : B = unshift (splitOctets (joinTriplets (decodeCharset t.rb w.alphabet))) w.keyBytes := by
    rw [hrb, hconf.alphabet, hconf.keyBytes, hinv.alphaInv.unshift_decode_encode hok]
  obtain ⟨r2, u, hdecode, hverdict, hfits⟩ := decodeTransactionLaw w t.rb B hinvw hreadyw hplain
  have hfit : B.length ≤ w.params.rbMax := by rw [hconf.params]; omega
  obtain ⟨hvalid, hlegacy, hmalformed, -⟩ := hverdict (hfits hfit)
  refine ⟨r1, t, _, u, hrun, runInstrs_cons hclr hdecode, fun hB => ?_, fun hB hl => ?_, fun hB hl => ?_⟩
  · obtain ⟨h1, h2, h3⟩ := hvalid hB
    exact ⟨h2, h3, h1⟩
  · obtain ⟨h1, h2, h3⟩ := hlegacy hB (hconf.legacy.trans hl)
    exact ⟨h2, h3, h1⟩
  · obtain ⟨h1, h2, h3⟩ := hmalformed hB (hconf.legacy.trans hl)
    exact ⟨h2, h3, h1⟩

end Sys2Proof.Machine
end

section
/-! Entries that hold no value (spec/10_state.md R42): which reads hold one, and that a command does the same whatever the
others are filled in with. -/

namespace Sys2Proof.Machine

namespace State

/-- A slot that holds a value holds the one it reads as. -/
theorem alphaEntry_eq_some_alphaRead {s : State} {i : Sym} (h : (s.alphaEntry i).isSome = true) :
    s.alphaEntry i = some (s.alphaRead i) := by
  obtain ⟨v, hv⟩ := Option.isSome_iff_exists.1 h
  rw [alphaRead_of_entry hv, hv]

namespace Inv
variable {s : State} (h : s.Inv)
include h

/-- With all slots loaded each of them holds a value (R22). -/
theorem alphaEntry_isSome_of_loaded (hl : s.aloaded = 0xFF#8) (i : Sym) : (s.alphaEntry i).isSome = true := by
  have hones : ∀ k : Sym, (0xFF#8).getLsbD k.toNat = true := by decide
  exact h.alphaInv.holds i (hl ▸ hones i)

/-- Outside `IDLE` every slot holds a value (R40 item 2). -/
theorem alphaEntry_isSome_of_not_idle (hm : s.mode ≠ .idle) (i : Sym) : (s.alphaEntry i).isSome = true := by
  obtain ⟨-, hl, -, -⟩ := h.r40.transactionIsConfigured hm
  exact h.alphaEntry_isSome_of_loaded hl i

/-- A key byte below `KEYLEN` is the one it reads as (R40 item 9). -/
theorem keyEntry_eq_some_keyRead {j : Nat} (hj : j < s.keylen.toNat) :
    s.keyEntry j = some (s.keyRead (BitVec.ofNat 8 j)) := by
  obtain ⟨v, hv⟩ := Option.isSome_iff_exists.1 (h.keyInv.holds j hj)
  rw [keyRead_ofNat_of_entry (hj.trans s.keylen.isLt) hv, hv]

/-- An open transaction reads the key at `KIDX`, which stays below `KEYLEN` (R29, R40 item 3). -/
theorem kidx_stays (hm : s.mode = .enc ∨ s.mode = .dec) : s.keylen ≠ 0 ∧ s.kidx.toNat < s.keylen.toNat ∧
    ∀ x : Byte, (s.emitByte x).kidx.toNat < s.keylen.toNat := by
  obtain ⟨hk, -⟩ := h.r40.openHasIndex hm
  exact ⟨by rintro h0; simp [h0] at hk, hk, fun _ => nextKidx_lt hk⟩

end Inv

/-- A state with other contents of ALPHA and KEY. -/
def fill (a : Vector (Option Chr) 8) (k : List (Option Byte)) (s : State) : State := { s with alpha := a, key := k }

/-- Filling in is putting other contents into ALPHA and KEY (R42). -/
theorem FilledIn.exists_fill {s u : State} (h : s.FilledIn u) : ∃ a k, u = s.fill a k := ⟨u.alpha, u.key, h.others⟩

section fill
variable {s : State} {a : Vector (Option Chr) 8} {k : List (Option Byte)}

/-- What does not write ALPHA and KEY keeps them filled in. -/
theorem FilledIn.of_same {t : State} (h : s.FilledIn (s.fill a k)) (halpha : t.alpha = s.alpha) (hkey : t.key = s.key) :
    t.FilledIn (t.fill a k) where
  others := rfl
  keyLength := hkey ▸ h.keyLength
  alpha i v hv := h.alpha i v (by rwa [alphaEntry, halpha] at hv)
  key j v hv := h.key j v (by rwa [keyEntry, hkey] at hv)

/-- The symbols pushed are the same if the slots read the same. -/
theorem pushSymbols_fill (halpha : ∀ i, (s.fill a k).alphaRead i = s.alphaRead i) (g : Group) (n : Nat) :
    (s.fill a k).pushSymbols g n = (s.pushSymbols g n).fill a k := by
  simp only [pushSymbols, halpha]
  rfl

theorem lutMatch_fill (halpha : ∀ i, (s.fill a k).alphaRead i = s.alphaRead i) (ch : Chr) :
    (s.fill a k).lutMatch ch = s.lutMatch ch := by
  simp only [lutMatch, halpha]

/-- The byte emitted is the same if the key entry at `KIDX` reads the same. -/
theorem emitByte_fill (hkey : (s.fill a k).keyRead s.kidx = s.keyRead s.kidx) (x : Byte) :
    (s.fill a k).emitByte x = (s.emitByte x).fill a k := by
  have hkidx : (s.fill a k).kidx = s.kidx := rfl
  simp only [emitByte, hkidx, hkey]
  rfl

/-- Several bytes emitted keep `KIDX` below `KEYLEN`. -/
theorem emitBytes_kidx_lt (h : s.kidx.toNat < s.keylen.toNat) (g : Group) (n : Nat) :
    (s.emitBytes g n).kidx.toNat < s.keylen.toNat := by
  induction n with
  | zero => exact h
  | succ n ih =>
    have hlen : (s.emitBytes g n).keylen = s.keylen := by simp only [emitBytes_frame g n s]
    rw [emitBytes_succ, emitByte_kidx, hlen]
    exact nextKidx_lt ih

/-- The bytes emitted are the same if the key entries below `KEYLEN` read the same. -/
theorem emitBytes_fill (hkey : ∀ j : BitVec 8, j.toNat < s.keylen.toNat → (s.fill a k).keyRead j = s.keyRead j)
    (h : s.kidx.toNat < s.keylen.toNat) (g : Group) (n : Nat) :
    (s.fill a k).emitBytes g n = (s.emitBytes g n).fill a k := by
  induction n with
  | zero => rfl
  | succ n ih =>
    have hread (j : BitVec 8) : (s.emitBytes g n).keyRead j = s.keyRead j := by
      simp only [keyRead, emitBytes_frame g n s]
    rw [emitBytes_succ, emitBytes_succ, ih, emitByte_fill]
    rw [hread]
    exact hkey _ (emitBytes_kidx_lt h g n)

end fill

end State

open State

section body
variable {s : State} {a : Vector (Option Chr) 8} {k : List (Option Byte)}

theorem chkaBody_fill (halpha : s.aloaded = 0xFF#8 → (s.fill a k).alphabet = s.alphabet) :
    chkaBody (s.fill a k) = (chkaBody s).fill a k := by
  have hloaded : (s.fill a k).aloaded = s.aloaded := rfl
  by_cases hl : s.aloaded = 0xFF#8
  · simp only [chkaBody, hloaded, halpha hl, apply_ite (State.fill a k)]
    rfl
  · simp only [chkaBody, hloaded, ne_eq, hl, not_false_eq_true, if_true]
    rfl

theorem encpBody_fill (halpha : ∀ i, (s.fill a k).alphaRead i = s.alphaRead i)
    (hkey : (s.fill a k).keyRead s.kidx = s.keyRead s.kidx) (b : Byte) :
    encpBody b (s.fill a k) = (encpBody b s).fill a k := by
  have hgroup : encGroup b (s.fill a k) = encGroup b s := by
    have hkidx : (s.fill a k).kidx = s.kidx := rfl
    rw [encGroup, hkidx, hkey]
    rfl
  simp only [encpBody, hgroup, pushSymbols_fill halpha, apply_ite (State.fill a k)]
  rfl

theorem enceBody_fill (halpha : ∀ i, (s.fill a k).alphaRead i = s.alphaRead i) :
    enceBody (s.fill a k) = (enceBody s).fill a k := by
  simp only [enceBody, pushSymbols_fill halpha, apply_ite (State.fill a k)]
  rfl

theorem decpBody_fill (halpha : ∀ i, (s.fill a k).alphaRead i = s.alphaRead i)
    (hkey : ∀ j : BitVec 8, j.toNat < s.keylen.toNat → (s.fill a k).keyRead j = s.keyRead j)
    (h : s.kidx.toNat < s.keylen.toNat) (ch : Chr) : decpBody ch (s.fill a k) = (decpBody ch s).fill a k := by
  cases hc : s.lutMatch ch with
  | none => rw [decpBody_of_none hc, decpBody_of_none ((lutMatch_fill halpha ch).trans hc)]; rfl
  | some i =>
    rw [decpBody_of_some hc, decpBody_of_some ((lutMatch_fill halpha ch).trans hc)]
    simp only [decpFound, emitBytes_fill hkey h, apply_ite (State.fill a k)]
    rfl

theorem deceBody_fill (hkey : ∀ j : BitVec 8, j.toNat < s.keylen.toNat → (s.fill a k).keyRead j = s.keyRead j)
    (h : s.kidx.toNat < s.keylen.toNat) : deceBody (s.fill a k) = (deceBody s).fill a k := by
  simp only [deceBody, giveVerdict, emitBytes_fill hkey h, apply_ite (State.fill a k)]
  rfl

theorem popBody_fill : popBody (s.fill a k) = (popBody s).fill a k := by
  have hrb : (s.fill a k).rb = s.rb := rfl
  simp only [popBody, hrb]
  split <;> rfl

theorem beginTransaction_fill (m : Mode) (r : RKind) :
    beginTransaction m r (s.fill a k) = (beginTransaction m r s).fill a k := by
  simp only [beginTransaction, apply_ite (State.fill a k)]
  rfl

end body

/-- `v` is `t` with entries that hold no value filled in, and has the same response (R42). -/
def SameFilledIn (t v : State) : Prop := v.rsp = t.rsp ∧ t.FilledIn v

section filled
variable {s : State} {a : Vector (Option Chr) 8} {k : List (Option Byte)} (h : s.FilledIn (s.fill a k))
include h

/-- A command that does the same whatever is filled in, and does not write ALPHA and KEY. -/
theorem sameFilledIn_of_fill {t v : State} (hv : v = t.fill a k) (halpha : t.alpha = s.alpha) (hkey : t.key = s.key) :
    SameFilledIn t v :=
  hv ▸ ⟨rfl, h.of_same halpha hkey⟩

theorem ldaBody_sameFilledIn (idx : Sym) (ch : Chr) : SameFilledIn (ldaBody idx ch s) (ldaBody idx ch (s.fill a k)) := by
  refine ⟨rfl, rfl, h.keyLength, fun i v hv => ?_, h.key⟩
  rw [ldaBody_alphaEntry] at hv ⊢
  split_ifs at hv ⊢ with hi
  · exact hv
  · exact h.alpha i v hv

theorem kclrBody_sameFilledIn : SameFilledIn (kclrBody s) (kclrBody (s.fill a k)) := by
  refine ⟨rfl, rfl, ?_, h.alpha, fun j v hv => ?_⟩
  · simpa [kclrBody] using h.keyLength
  · rw [kclrBody_keyEntry] at hv
    cases hv

theorem kpushBody_sameFilledIn (hk : s.KeyInv) (b : Byte) :
    SameFilledIn (kpushBody b s) (kpushBody b (s.fill a k)) := by
  by_cases hfull : s.keylen.toNat = s.params.keyMax
  · rw [kpushBody, kpushBody, if_pos hfull, if_pos (by exact hfull)]
    exact sameFilledIn_of_fill h rfl rfl rfl
  have hlt : s.keylen.toNat < s.params.keyMax := Nat.lt_of_le_of_ne hk.fits hfull
  have hin : s.keylen.toNat < s.key.length := hk.array ▸ hlt
  rw [kpushBody_of_lt b hlt, kpushBody_of_lt b (by exact hlt)]
  refine ⟨rfl, rfl, ?_, h.alpha, fun j v hv => ?_⟩
  · simpa using h.keyLength
  · have hs := (keyEntry_set hin b j).symm.trans hv
    refine (keyEntry_set (s := s.fill a k) (n := s.keylen.toNat) (h.keyLength ▸ hin) b j).trans ?_
    split_ifs at hs ⊢ with hj
    · exact hs
    · exact h.key j v hs

/-- Every command's pseudocode does the same whatever is filled in: it reads ALPHA with all slots loaded, the key below
`KEYLEN`, or neither. -/
theorem body_sameFilledIn {i : Instr} (hinv : s.Inv) (hgate : ∀ m, gate i = some m → s.mode = m) :
    SameFilledIn (body i s) (body i (s.fill a k)) := by
  have halpha (hm : s.mode ≠ .idle) (i : Sym) : (s.fill a k).alphaRead i = s.alphaRead i :=
    h.alphaRead_eq (hinv.alphaEntry_isSome_of_not_idle hm i)
  have hkey (j : BitVec 8) (hj : j.toNat < s.keylen.toNat) : (s.fill a k).keyRead j = s.keyRead j :=
    h.keyRead_eq (hinv.keyInv.holds _ hj)
  have hw := body_writes i s
  cases i with
  | srst => exact ⟨rfl, FilledIn.refl _⟩
  | clr | rdst | rdn | setl => exact sameFilledIn_of_fill h rfl rfl rfl
  | lda idx ch => exact ldaBody_sameFilledIn h idx ch
  | kclr => exact kclrBody_sameFilledIn h
  | kpush b => exact kpushBody_sameFilledIn h hinv.keyInv b
  | chka =>
    have halphabet (hl : s.aloaded = 0xFF#8) := h.alphabet_eq (hinv.alphaEntry_isSome_of_loaded hl)
    obtain ⟨_, _, _, ht⟩ := hw
    exact sameFilledIn_of_fill h (chkaBody_fill halphabet) (by rw [ht]) (by rw [ht])
  | encb | decb =>
    obtain ⟨_, _, _, _, ht⟩ := hw
    exact sameFilledIn_of_fill h (beginTransaction_fill _ _) (by rw [ht]) (by rw [ht])
  | encp b =>
    have hm : s.mode = .enc := hgate _ rfl
    obtain ⟨_, _, _, _, _, _, ht⟩ := hw
    exact sameFilledIn_of_fill h (encpBody_fill (halpha (by simp [hm])) (hkey _ (hinv.encoding hm).kidx) b) (by rw [ht])
      (by rw [ht])
  | ence =>
    have hm : s.mode = .enc := hgate _ rfl
    obtain ⟨_, _, _, _, _, _, _, ht⟩ := hw
    exact sameFilledIn_of_fill h (enceBody_fill (halpha (by simp [hm]))) (by rw [ht]) (by rw [ht])
  | decp ch =>
    have hm : s.mode = .dec := hgate _ rfl
    obtain ⟨_, _, _, _, _, _, _, ht⟩ := hw
    exact sameFilledIn_of_fill h (decpBody_fill (halpha (by simp [hm])) hkey (hinv.decoding hm).kidx ch) (by rw [ht])
      (by rw [ht])
  | dece =>
    have hm : s.mode = .dec := hgate _ rfl
    obtain ⟨_, _, _, _, _, _, _, _, _, ht⟩ := hw
    exact sameFilledIn_of_fill h (deceBody_fill hkey (hinv.decoding hm).kidx) (by rw [ht]) (by rw [ht])
  | pop =>
    obtain ⟨_, _, _, ht⟩ := hw
    exact sameFilledIn_of_fill h popBody_fill (by rw [ht]) (by rw [ht])

/-- Every command does the same whatever is filled in: the common checks read neither ALPHA nor KEY. -/
theorem exec_sameFilledIn {i : Instr} {t : State} (hinv : s.Inv) (ht : exec i s = .next t) :
    ∃ v, exec i (s.fill a k) = .next v ∧ SameFilledIn t v := by
  rcases exec_cases ht with ⟨hg, rfl⟩ | ⟨m, hg, hf, rfl⟩ | ⟨m, hg, hf, hm, rfl⟩ | ⟨m, hg, hf, hm, rfl⟩
  · exact ⟨_, exec_of_gate_none hg _, body_sameFilledIn h hinv (by simp [hg])⟩
  · exact ⟨_, exec_of_faulted hg hf, sameFilledIn_of_fill h rfl rfl rfl⟩
  · refine ⟨(s.raise .seqError).fill a k, ?_, sameFilledIn_of_fill h rfl rfl rfl⟩
    rw [exec_of_gate_some hg, inMode_of_ne (by exact hf) (by exact hm)]
    rfl
  · exact ⟨_, exec_of_legal hg hf hm, body_sameFilledIn h hinv fun m' hm' => hm.trans (by simpa [hg] using hm')⟩

end filled

/-- Settles O43: the entries read hold values by the invariant, and what a command does depends on no other. -/
theorem noValueIsNeverRead : Obligations.NoValueIsNeverRead := by
  unfold Obligations.NoValueIsNeverRead
  refine ⟨fun s h => ⟨fun hl i => ?_, fun hm i => ?_, fun j => h.keyEntry_eq_some_keyRead, h.kidx_stays,
    fun hm => (h.encoding hm).gcnt⟩, fun i s t u hinv hfilled ht => ?_⟩
  · exact alphaEntry_eq_some_alphaRead (h.alphaEntry_isSome_of_loaded hl i)
  · exact alphaEntry_eq_some_alphaRead (h.alphaEntry_isSome_of_not_idle hm i)
  · obtain ⟨a, k, rfl⟩ := hfilled.exists_fill
    exact exec_sameFilledIn hfilled hinv ht

end Sys2Proof.Machine
end
